-- ==== Sys2Proof/Word.lean ====
section
/-! DEFINITION. The two word types of the core: an 8-bit byte and a 16-bit word (rules R5, R20, R60).
Wrapping arithmetic is BitVec's own; the bit-field and byte-order helpers stand in Machine/Bits.lean. -/

namespace Sys2Proof

/-- A byte: the width `W8` of A, B, C, D, E, F, H, L and of one memory location (rules R5, R60). -/
abbrev Byte := BitVec 8

/-- A 16-bit word: the width `W16` of PC, SP and a bus address (rules R5, R60). -/
abbrev Word := BitVec 16

end Sys2Proof
end

