-- ==== Sys2Proof/Machine/Bits.lean ====
section
/-! DEFINITION. Bit-field, byte-order and sign-extension helpers (rules R6, R7). -/

namespace Sys2Proof.Machine

/-- `hi(v)` = `v[15:8]` (R6). -/
def hiByte (v : Word) : Byte := v.extractLsb' 8 8

/-- `lo(v)` = `v[7:0]` (R6). -/
def loByte (v : Word) : Byte := v.extractLsb' 0 8

/-- `{h, l}`: the 16-bit value with high byte `h` and low byte `l` (R6). -/
def mkWord (h l : Byte) : Word := h ++ l

/-- `sext8(e)` reduced to 16 bits (R7): the two's-complement displacement added modulo 65536. -/
def sext8 (e : Byte) : Word := e.signExtend 16

/-- `b2i(p)`: 1 when p holds, else 0 (R7). -/
def b2i (p : Bool) : Nat := if p then 1 else 0

/-- Bit `n` of a byte as the number 2^n: `1 << n` for a bit number field (R249, R251, R348). -/
def bitMask (n : Nat) : Byte := 1#8 <<< n

end Sys2Proof.Machine
end

