-- ==== Sys2Proof/Machine/Flags.lean ====
section
/-! DEFINITION. The flag bits of F and every flag computation of the spec, as functions on numbers: the accumulator functions
(rule R171), decimal adjust (R200), the shifts and rotates (R230), the bit test (R247) and the 16-bit sums (R304, R307, R153). -/

namespace Sys2Proof.Machine

/-! ## The flags register (rule R23) -/

/-- Z, bit 7 of F. -/
def flagZ (f : Byte) : Bool := f.getLsbD 7

/-- N, bit 6 of F. -/
def flagN (f : Byte) : Bool := f.getLsbD 6

/-- H, bit 5 of F (`Hf`). -/
def flagH (f : Byte) : Bool := f.getLsbD 5

/-- C, bit 4 of F (`Cy`). -/
def flagC (f : Byte) : Bool := f.getLsbD 4

/-- `{z, n, h, c, 0, 0, 0, 0}`: the value `flags <- (z, n, h, c)` writes to F (R8). -/
def packFlags (z n h c : Bool) : Byte :=
  (if z then 0x80#8 else 0#8) ||| (if n then 0x40#8 else 0#8) ||| (if h then 0x20#8 else 0#8) ||| (if c then 0x10#8 else 0#8)

/-! ## The accumulator functions (rule R171): the result byte and the value of F -/

/-- `ADD8`. -/
def add8 (a v : Byte) : Byte × Byte :=
  let sum := a.toNat + v.toNat
  let r := BitVec.ofNat 8 sum
  (r, packFlags (r = 0) false (a.toNat % 16 + v.toNat % 16 > 15) (sum > 255))

/-- `ADC8`. -/
def adc8 (a v : Byte) (c : Bool) : Byte × Byte :=
  let sum := a.toNat + v.toNat + b2i c
  let r := BitVec.ofNat 8 sum
  (r, packFlags (r = 0) false (a.toNat % 16 + v.toNat % 16 + b2i c > 15) (sum > 255))

/-- `SUB8`; CP uses its flags. -/
def sub8 (a v : Byte) : Byte × Byte :=
  let r := BitVec.ofInt 8 ((a.toNat : Int) - v.toNat)
  (r, packFlags (r = 0) true (a.toNat % 16 < v.toNat % 16) (a.toNat < v.toNat))

/-- `SBC8`; the comparisons are on unbounded integers. -/
def sbc8 (a v : Byte) (c : Bool) : Byte × Byte :=
  let r := BitVec.ofInt 8 ((a.toNat : Int) - v.toNat - b2i c)
  (r, packFlags (r = 0) true (a.toNat % 16 < v.toNat % 16 + b2i c) (a.toNat < v.toNat + b2i c))

/-- `AND8`. -/
def and8 (a v : Byte) : Byte × Byte := (a &&& v, packFlags (a &&& v = 0) false true false)

/-- `XOR8`. -/
def xor8 (a v : Byte) : Byte × Byte := (a ^^^ v, packFlags (a ^^^ v = 0) false false false)

/-- `OR8`. -/
def or8 (a v : Byte) : Byte × Byte := (a ||| v, packFlags (a ||| v = 0) false false false)

/-- `INC8`, with F before: C keeps its value. -/
def inc8 (x f : Byte) : Byte × Byte :=
  let r := BitVec.ofNat 8 (x.toNat + 1)
  (r, packFlags (r = 0) false (x.toNat % 16 = 15) (flagC f))

/-- `DEC8`, with F before: C keeps its value. -/
def dec8 (x f : Byte) : Byte × Byte :=
  let r := BitVec.ofInt 8 ((x.toNat : Int) - 1)
  (r, packFlags (r = 0) true (x.toNat % 16 = 0) (flagC f))

/-! ## Decimal adjust (rule R200) -/

/-- The correction after an addition: the adjusted number and whether the high correction was applied. -/
def daaAfterAdd (a : Nat) (h c : Bool) : Nat × Bool :=
  let high := c || decide (a > 0x99)
  let low := h || decide (a % 16 > 9)
  (a + (if high then 0x60 else 0) + (if low then 0x06 else 0), high)

/-- The correction after a subtraction; C keeps its value. -/
def daaAfterSub (a : Int) (h c : Bool) : Int := a - (if c then 0x60 else 0) - (if h then 0x06 else 0)

/-- `DAA` on A and F: the new A and the new F. -/
def daa8 (a f : Byte) : Byte × Byte :=
  if flagN f then
    let r := BitVec.ofInt 8 (daaAfterSub a.toNat (flagH f) (flagC f))
    (r, packFlags (r = 0) true false (flagC f))
  else
    let x := daaAfterAdd a.toNat (flagH f) (flagC f)
    let r := BitVec.ofNat 8 x.1
    (r, packFlags (r = 0) false false x.2)

/-! ## Shifts and rotates (rule R230): the result and the bit moved out -/

/-- A bit as a byte, 0 or 1. -/
def bitByte (b : Bool) : Byte := if b then 1#8 else 0#8

/-- `RLC`. -/
def rlc8 (x : Byte) : Byte × Bool := (x <<< 1 ||| bitByte (x.getLsbD 7), x.getLsbD 7)

/-- `RRC`. -/
def rrc8 (x : Byte) : Byte × Bool := (x >>> 1 ||| bitByte (x.getLsbD 0) <<< 7, x.getLsbD 0)

/-- `RL`, through carry. -/
def rl8 (x : Byte) (c : Bool) : Byte × Bool := (x <<< 1 ||| bitByte c, x.getLsbD 7)

/-- `RR`, through carry. -/
def rr8 (x : Byte) (c : Bool) : Byte × Bool := (x >>> 1 ||| bitByte c <<< 7, x.getLsbD 0)

/-- `SLA`. -/
def sla8 (x : Byte) : Byte × Bool := (x <<< 1, x.getLsbD 7)

/-- `SRA`: bit 7 keeps its value. -/
def sra8 (x : Byte) : Byte × Bool := (x >>> 1 ||| (x &&& 0x80), x.getLsbD 0)

/-- `SRL`. -/
def srl8 (x : Byte) : Byte × Bool := (x >>> 1, x.getLsbD 0)

/-- `SWAP`: exchange the nibbles; the bit moved out is 0. -/
def swap8 (x : Byte) : Byte × Bool := (x <<< 4 ||| x >>> 4, false)

/-- The flags of the eight prefixed shifts: `(b2i(r = 0), 0, 0, co)` (R230). -/
def shiftFlags (x : Byte × Bool) : Byte := packFlags (x.1 = 0) false false x.2

/-- The flags of the four accumulator rotates: Z is `ACC_ROT_Z` (R204 to R207, D12). -/
def accRotFlags (accRotZ co : Bool) : Byte := packFlags accRotZ false false co

/-- The flags of a bit test, with F before: `(1 - x[b], 0, 1, -)` (R247, R248). -/
def bitFlags (x : Byte) (n : BitVec 3) (f : Byte) : Byte := packFlags (!x.getLsbD n.toNat) false true (flagC f)

/-! ## 16-bit sums -/

/-- `ADD HL,rr`, with F before: the sum and F (R304): Z unchanged, half carry out of bit 11, carry out of bit 15. -/
def addWord (x y : Word) (f : Byte) : Word × Byte :=
  let sum := x.toNat + y.toNat
  (BitVec.ofNat 16 sum, packFlags (flagZ f) false (x.toNat % 4096 + y.toNat % 4096 > 0x0FFF) (sum > 0xFFFF))

/-- SP plus a signed displacement, with the flags of `ADD SP,e8` and `LD HL,SP+e8` (R307, R153): Z = N = 0, H and C from the
unsigned sum of the low byte of SP and the byte e. -/
def addSpSigned (sp : Word) (e : Byte) : Word × Byte :=
  (sp + sext8 e,
    packFlags false false (sp.toNat % 16 + e.toNat % 16 > 0x0F) (sp.toNat % 256 + e.toNat > 0xFF))

end Sys2Proof.Machine
end

