-- ==== Sys2Proof/Config.lean ====
section
/-! DEFINITION. The implementation parameters of rule R5, as plain data: a machine's `Config` is fixed for the machine
and carried in its state, so a claim holds for every configuration or names the one it is about.
The default values stand in Machine/Params.lean. -/

namespace Sys2Proof

/-- The parameters that rule R5 marks "decided" or OPEN, one field each. The ones rule R5 marks "fixed" (W8, W16,
T_PER_M, TABLE_SIZE, PREFIX) are types or constants of the model. -/
structure Config where
  /-- `IE_ADDR`: the bus address of the "enabled" interrupt mask (R5, R33, D2). -/
  ieAddr : Word
  /-- `IF_ADDR`: the bus address of the "pending" interrupt mask (R5, R34, D2). -/
  ifAddr : Word
  /-- `INT_VECTOR_BASE`: the base of the vector formula `base + 8*i` (R5, R69, D3). -/
  intVectorBase : Word
  /-- `INT_MASK`: the bits of `pending & enabled` the controller considers (R5, R341, D4; OPEN). -/
  intMask : Byte
  /-- `INT_DISPATCH_TICKS`: the clock cost of an interrupt dispatch (R5, R348, D6). The last 12 units are the two pushes and the
  closing machine cycle; the rest passes before the first push (Machine/Ops.lean). -/
  intDispatchTicks : Nat
  /-- `IDLE_TICK`: the clock advance of a blocked, stopped or halted step (R5, R344, R349, D7; OPEN). -/
  idleTick : Nat
  /-- `UNDEF_TICKS`: the clock cost of an undefined opcode (R5, R312, D16). -/
  undefTicks : Nat
  /-- `STOP_LENGTH`: the bytes by which STOP advances PC (R5, R311, D17). -/
  stopLength : Nat
  /-- `DI_DELAYED`: DI writes only the next-latch (R5, R308, D10). -/
  diDelayed : Bool
  /-- `RETI_IMMEDIATE`: RETI sets IME at once (R5, R280, D11). -/
  retiImmediate : Bool
  /-- `ACC_ROT_Z`: the value RLCA, RRCA, RLA and RRA give flag Z (R5, R204 to R207, D12). -/
  accRotZ : Bool
  /-- `HIGH_PAGE`: the base of the 8-bit-offset addressing forms (R5, R69, D29). -/
  highPage : Word
  /-- `DEBUG_PRESENT`: whether the execution-breakpoint layer exists (R5, R351, R360, D25). -/
  debugPresent : Bool
  deriving DecidableEq, Repr

/-- `RESET_REGS`: the ten register values that `reset` takes as its argument (R5, R41, R390, D19; OPEN). -/
structure ResetRegs where
  a : Byte
  f : Byte
  b : Byte
  c : Byte
  d : Byte
  e : Byte
  h : Byte
  l : Byte
  sp : Word
  pc : Word
  deriving DecidableEq, Repr

end Sys2Proof
end

