-- ==== Sys2Proof/Machine/Params.lean ====
section
/-! DEFINITION. The values of the parameters of rule R5: the fixed ones as constants, the decided and OPEN ones as the
default configuration, and the default `RESET_REGS` of rule R41. -/

namespace Sys2Proof.Machine

/-- `T_PER_M`: clock units per machine cycle (R5, fixed). -/
def tPerM : Nat := 4

/-- The part of `INT_DISPATCH_TICKS` that passes before the first push of a dispatch: what the three machine cycles of the two
pushes and of the jump leave, `Tick(8)` with the default 20 (R348 step 3, D6; log entry 10). -/
def dispatchLead (cfg : Config) : Nat := cfg.intDispatchTicks - 3 * tPerM

/-- The default configuration: the value column of rule R5 (decisions D2 to D4, D6, D7, D10 to D12, D16, D17, D25, D29). -/
def defaultConfig : Config where
  ieAddr := 0xFFFF
  ifAddr := 0xFF0F
  intVectorBase := 0x0040
  intMask := 0xFF
  intDispatchTicks := 20
  idleTick := 4
  undefTicks := 4
  stopLength := 2
  diDelayed := true
  retiImmediate := true
  accRotZ := false
  highPage := 0xFF00
  debugPresent := false

/-- The default `RESET_REGS`: the DMG post-boot values of rule R41 (D19; general knowledge of the console). -/
def dmgRegs : ResetRegs where
  a := 0x01
  f := 0xB0
  b := 0x00
  c := 0x13
  d := 0x00
  e := 0xD8
  h := 0x01
  l := 0x4D
  sp := 0xFFFE
  pc := 0x0100

/-- What a memory byte that nothing has written reads as. DESIGN CHOICE (log entry 1): the spec leaves the fill value to
the environment (R61, U6); this is the 00 of the flat RAM of 95_test_vectors.md. -/
def memFill : Byte := 0x00

end Sys2Proof.Machine
end

