-- ==== Sys2Proof/Machine/Memory.lean ====
section
/-! DEFINITION. The memory the environment keeps behind the bus, as flat RAM (rules R60, R61): a list of cells in one
canonical form, so that equal memories are equal lists. -/

namespace Sys2Proof.Machine

/-- The 65,536 byte locations (R60): the listed cells, and `memFill` everywhere else. -/
abbrev Memory := List Host.Cell

/-- The canonical form: addresses strictly rising, each below 65536, and no cell that lists the fill value. -/
abbrev Memory.wf (m : Memory) : Prop :=
  m.Pairwise (fun x y => x.1 < y.1) ∧ ∀ x ∈ m, x.1 < 65536 ∧ x.2 ≠ memFill

/-- The byte at an address (R61). -/
def Memory.read (m : Memory) (a : Nat) : Byte :=
  match m with
  | [] => memFill
  | x :: rest => if x.1 = a then x.2 else Memory.read rest a

/-- Drop the cell of an address. -/
def Memory.erase (m : Memory) (a : Nat) : Memory := m.filter (fun x => x.1 != a)

/-- Put a cell in front of the first cell of a higher address. -/
def Memory.insert (m : Memory) (a : Nat) (v : Byte) : Memory :=
  match m with
  | [] => [(a, v)]
  | x :: rest => if a < x.1 then (a, v) :: x :: rest else x :: Memory.insert rest a v

/-- Store a byte (R61), keeping the canonical form: storing the fill value leaves the address unlisted. -/
def Memory.write (m : Memory) (a : Nat) (v : Byte) : Memory :=
  if v = memFill then m.erase a else (m.erase a).insert a v

end Sys2Proof.Machine
end

