-- ==== Sys2Proof/Machine/State.lean ====
section
/-! DEFINITION. The state of the machine as plain data (rules R20 to R42), the reasons a step can stop, and the state
right after reset (rules R41, R390). -/

namespace Sys2Proof.Machine

/-- The externally visible events of the core (R11): a bus read with the byte it returned, a bus write, a tick. -/
inductive BusEvent
  | read (a : Word) (v : Byte)
  | write (a : Word) (v : Byte)
  | tick (n : Nat)
  deriving DecidableEq, Repr

/-- What the environment may do (R32, R74): a peripheral or the host changes a memory byte, raises an interrupt line
(sets bit i of the byte at `IF_ADDR`, R342), changes the `blocked` input, or takes the `wake_stop` action (R29). -/
inductive EnvAction
  | write (a : Word) (v : Byte)
  | raise (i : BitVec 3)
  | setBlocked (b : Bool)
  | wakeStop
  deriving DecidableEq, Repr

/-- An action of the environment and the clock value whose `Tick` it happens in: the first `Tick` that brings `clock`
to `due` or more (R74). -/
structure TimedAction where
  due : Nat
  action : EnvAction
  deriving DecidableEq, Repr

/-- Why a step may stop with a fault: never. Rule R340: "The core raises no synchronous exception of any kind"; rule
R363: "`Step` can always be called again and always terminates". There is no constructor, so no claim can hide a stop. -/
inductive Fault
  deriving DecidableEq, Repr

/-- Why a step may be refused. -/
inductive Refusal
  /-- Raised by `exec` alone, for an instruction whose meaning is not written; no arm raises it now. Safe. -/
  | notModelled (mnemonic : String)
  /-- Raised by `step` alone, for an opcode whose table slot is empty; rule R98 says no slot is. Safe. -/
  | unmappedOpcode (op : Byte)
  deriving DecidableEq, Repr

/-- Everything the spec gives the machine (R42), then the environment it runs in, then the model's own record. -/
structure State where
  /-- The accumulator (R20). -/
  a : Byte
  /-- The flags register: Z N H C in bits 7 to 4, low nibble always 0 (R23). -/
  f : Byte
  b : Byte
  c : Byte
  d : Byte
  e : Byte
  h : Byte
  l : Byte
  /-- The program counter: between steps, the address of the next opcode byte (R25). -/
  pc : Word
  /-- The stack pointer: the address of the lowest occupied stack byte (R26). -/
  sp : Word
  /-- The cycle counter, an unbounded natural (R27, D20). -/
  clock : Nat
  /-- False: halted for interrupt (R28). -/
  running : Bool
  /-- True: stopped by STOP (R29). -/
  stopped : Bool
  /-- `interrupts-enabled-now` (R30). -/
  ime : Bool
  /-- `interrupts-enabled-next` (R31). -/
  imeNext : Bool
  /-- The external hold, an input (R32). -/
  blocked : Bool
  /-- The environment's memory, the bytes at `IE_ADDR` and `IF_ADDR` among it (R33, R34, R42, R61). -/
  mem : Memory
  /-- Execution breakpoints (R39), consulted when `config.debugPresent`. -/
  execBp : List Word
  /-- Stepping is suspended by a breakpoint: an output to the host (R39, R351). -/
  trapped : Bool
  /-- The host lets the next breakpoint pass (R39, R351). -/
  trapResolved : Bool
  /-- The parameters of rule R5; no step changes them. -/
  config : Config
  /-- The model's own: what the environment will do, oldest first (R74). -/
  env : List TimedAction
  /-- The model's own: the events so far, newest first (R11). -/
  history : List BusEvent
  deriving DecidableEq, Repr

/-- The machine right after `reset` with the default `RESET_REGS` (R41, R390): registers as the table gives them, `clock` 0,
running, not stopped, both latches 0, debug flags 0. The environment's part, which reset does not touch, is flat RAM with
nothing written, not blocked, no breakpoint, no action pending (DESIGN CHOICE, log entries 1 and 2). -/
def State.reset : State where
  a := dmgRegs.a
  f := dmgRegs.f &&& 0xF0
  b := dmgRegs.b
  c := dmgRegs.c
  d := dmgRegs.d
  e := dmgRegs.e
  h := dmgRegs.h
  l := dmgRegs.l
  pc := dmgRegs.pc
  sp := dmgRegs.sp
  clock := 0
  running := true
  stopped := false
  ime := false
  imeNext := false
  blocked := false
  mem := []
  execBp := []
  trapped := false
  trapResolved := false
  config := defaultConfig
  env := []
  history := []

end Sys2Proof.Machine
end

