-- ==== Sys2Proof/Machine/Ops.lean ====
section
/-! DEFINITION. The named operations every rule is written in (rule R9): the environment's actions and `Tick`, the bus
primitives, `Read8` and `Write8`, the stack, taking an interrupt (R348) and returning from one (R280). -/

namespace Sys2Proof.Machine

/-! ## Single-field updates -/

/-- Record an event (R11). -/
def State.record (s : State) (ev : BusEvent) : State := { s with history := ev :: s.history }

/-- `PC <- v` (R21, R25). -/
def State.setPc (s : State) (v : Word) : State := { s with pc := v }

/-- `SP <- v` (R21, R26). -/
def State.setSp (s : State) (v : Word) : State := { s with sp := v }

/-- A write to F stores `value & 0xF0` (R23). -/
def State.setF (s : State) (v : Byte) : State := { s with f := v &&& 0xF0 }

/-- `IME <- v` (R30). -/
def State.setIme (s : State) (v : Bool) : State := { s with ime := v }

/-- `IME_next <- v` (R31). -/
def State.setImeNext (s : State) (v : Bool) : State := { s with imeNext := v }

/-- `running <- v` (R28). -/
def State.setRunning (s : State) (v : Bool) : State := { s with running := v }

/-- `stopped <- v` (R29). -/
def State.setStopped (s : State) (v : Bool) : State := { s with stopped := v }

/-- The environment's memory changes (R61). -/
def State.setMem (s : State) (m : Memory) : State := { s with mem := m }

/-- `PC <- pc0 + len`, modulo 65536 (R25). -/
def State.advance (s : State) (len : Nat) : State := s.setPc (s.pc + BitVec.ofNat 16 len)

/-! ## The environment and the clock (rules R27, R32, R74) -/

/-- The byte the environment returns for an address (R61, flat RAM). -/
def State.peek (s : State) (a : Word) : Byte := s.mem.read a.toNat

/-- One action of the environment (R74): it may change memory and `blocked`, and may take `wake_stop`. -/
def applyEnv (x : EnvAction) (s : State) : State :=
  match x with
  | .write a v => s.setMem (s.mem.write a.toNat v)
  | .raise i => s.setMem (s.mem.write s.config.ifAddr.toNat (s.peek s.config.ifAddr ||| bitMask i.toNat))
  | .setBlocked b => { s with blocked := b }
  | .wakeStop => s.setStopped false

/-- The environment's turn: the actions at the head of its queue whose time has come, oldest first. -/
def runEnv (q : List TimedAction) (s : State) : State :=
  match q with
  | [] => { s with env := [] }
  | x :: rest => if x.due ≤ s.clock then runEnv rest (applyEnv x.action s) else { s with env := x :: rest }

/-- `Tick(n)`: the sole clock advance; it notifies the environment, which acts before the core goes on (R27, R74). -/
def State.tick (s : State) (n : Nat) : State :=
  runEnv s.env { s with clock := s.clock + n, history := .tick n :: s.history }

/-- `Internal()`, and the machine cycle of the opcode read that begins every rule: `Tick(4)` (R9). -/
def State.cycle (s : State) : State := s.tick tPerM

/-! ## The bus (rules R61, R67) -/

/-- `MemRead(a, 1)`: the byte returned, and the event (R11, R61). -/
def State.busRead (s : State) (a : Word) : Byte × State := (s.peek a, s.record (.read a (s.peek a)))

/-- `MemWrite(a, 1, v)` (R11, R61). -/
def State.busWrite (s : State) (a : Word) (v : Byte) : State := (s.setMem (s.mem.write a.toNat v)).record (.write a v)

/-- `Read8(a)`: the access, then `Tick(4)` (R9, R67). -/
def State.read8 (s : State) (a : Word) : Byte × State := ((s.busRead a).1, (s.busRead a).2.cycle)

/-- `Write8(a, v)`: the access, then `Tick(4)` (R9, R67). -/
def State.write8 (s : State) (a : Word) (v : Byte) : State := (s.busWrite a v).cycle

/-- The bus access and machine cycle of the first byte after the opcode (`Imm8`, and the read of `op2` in `CBFetch`; R9,
R230). The byte read is the one the instruction was decoded from (Machine/StepParts.lean, log entry 5). -/
def State.imm8Cycle (s : State) : State := (s.read8 (s.pc + 1)).2

/-- The two bus accesses and machine cycles of `Imm16` (R9). -/
def State.imm16Cycles (s : State) : State := (s.imm8Cycle.read8 (s.pc + 2)).2

/-- The opening of every rule without an immediate: the opcode's machine cycle (R9, R352). -/
def State.begin1 (s : State) : State := s.cycle

/-- The opening of every rule with one byte after the opcode: `Tick(4); Imm8()`, and `CBFetch` (R9, R230). -/
def State.begin2 (s : State) : State := s.cycle.imm8Cycle

/-- The opening of every rule with a 16-bit immediate: `Tick(4); Imm16()` (R9). -/
def State.begin3 (s : State) : State := s.cycle.imm16Cycles

/-! ## The stack (rules R9, R26) -/

/-- `Push16(v)`: the high byte at SP - 1, then the low byte at SP - 2. -/
def State.push16 (s : State) (v : Word) : State :=
  let s := s.setSp (s.sp - 1)
  let s := s.write8 s.sp (hiByte v)
  let s := s.setSp (s.sp - 1)
  s.write8 s.sp (loByte v)

/-- `Pop16()`: the low byte at SP, then the high byte at SP + 1. -/
def State.pop16 (s : State) : Word × State :=
  let l := s.read8 s.sp
  let s := l.2.setSp (l.2.sp + 1)
  let h := s.read8 s.sp
  (mkWord h.1 l.1, h.2.setSp (h.2.sp + 1))

/-! ## Taking an interrupt and returning from one -/

/-- Dispatch of interrupt source `i`, given the byte the poll read at `IF_ADDR` (R348): the bit is cleared in IF, both latches
are cleared, the internal cycles before the push pass, PC is pushed, PC becomes `INT_VECTOR_BASE + 8*i`, one internal cycle passes. -/
def State.takeInterrupt (s : State) (i : Nat) (ifByte : Byte) : State :=
  let s := s.busWrite s.config.ifAddr (ifByte &&& ~~~bitMask i)
  let s := (s.setIme false).setImeNext false
  let s := s.tick (dispatchLead s.config)
  let s := s.push16 s.pc
  (s.setPc (s.config.intVectorBase + BitVec.ofNat 16 (8 * i))).cycle

/-- The return from an interrupt, after the opcode's machine cycle (R280): pop PC, one internal cycle, `IME_next <- 1`, and
`IME <- 1` when `RETI_IMMEDIATE`. It restores nothing else (R353). -/
def State.returnFromInterrupt (s : State) : State :=
  let p := s.pop16
  let s := (p.2.cycle.setPc p.1).setImeNext true
  s.setIme (s.config.retiImmediate || s.ime)

end Sys2Proof.Machine
end

