-- ==== Sys2Proof/Syntax.lean ====
section
/-! DEFINITION. The instructions of the core, one constructor of `Instr` for each of the 116 rows of
spec/opcode_table.json, in the table's order (rules R96, R97), and the operand kinds they carry
(rules R36, R37, R38, R92, R93). -/

namespace Sys2Proof

/-- The 8-bit register operands `r8[i]` for field values 0 to 5 and 7 (rule R36). Field value 6 is the memory byte
at HL, which every instruction has as a constructor of its own. -/
inductive Reg8
  | b | c | d | e | h | l | a
  deriving DecidableEq, Repr

/-- The 16-bit operands `r16a[i]` of LD rr,d16, INC rr, DEC rr and ADD HL,rr (rule R37). -/
inductive Pair16
  | bc | de | hl | sp
  deriving DecidableEq, Repr

/-- The 16-bit operands `r16b[i]` of PUSH and POP (rule R37). -/
inductive PairStk
  | bc | de | hl | af
  deriving DecidableEq, Repr

/-- The condition field `cc` (rule R38). -/
inductive Cond
  | nz | z | nc | c
  deriving DecidableEq, Repr

/-- The instructions, one constructor per row of the opcode table, in declaration order (rules R96, R97).
An immediate is carried as its bits: `n` (d8 or a8), `e` (e8, two's complement), `v` (d16), `a` (a16) (rule R92). -/
inductive Instr
  -- the eleven undefined primary opcodes (R99, R312)
  | undefD3 | undefDB | undefDD | undefE3 | undefE4 | undefEB | undefEC | undefED | undefF4 | undefFC | undefFD
  | nop
  | ldRrD16 (p : Pair16) (v : Word)
  | ldBcA | ldDeA | ldHliA | ldHldA | ldABc | ldADe | ldAHli | ldAHld
  | incRr (p : Pair16) | decRr (p : Pair16) | addHlRr (p : Pair16)
  | incR (r : Reg8) | incHl | decR (r : Reg8) | decHl
  | ldRD8 (r : Reg8) (n : Byte) | ldHlD8 (n : Byte)
  | rlca | rrca | rla | rra | daa | cpl | scf | ccf
  | ldA16Sp (a : Word) | stop | jrE8 (e : Byte) | jrCcE8 (cc : Cond) (e : Byte)
  | ldRR (dst : Reg8) (src : Reg8) | ldRHl (dst : Reg8) | ldHlR (src : Reg8) | halt
  | addAR (r : Reg8) | addAHl | adcAR (r : Reg8) | adcAHl | subR (r : Reg8) | subHl | sbcAR (r : Reg8) | sbcAHl
  | andR (r : Reg8) | andHl | xorR (r : Reg8) | xorHl | orR (r : Reg8) | orHl | cpR (r : Reg8) | cpHl
  | addAD8 (n : Byte) | adcAD8 (n : Byte) | subD8 (n : Byte) | sbcAD8 (n : Byte)
  | andD8 (n : Byte) | xorD8 (n : Byte) | orD8 (n : Byte) | cpD8 (n : Byte)
  | retCc (cc : Cond) | popRr (p : PairStk) | popAf
  | jpCcA16 (cc : Cond) (a : Word) | jpA16 (a : Word) | callCcA16 (cc : Cond) (a : Word)
  | pushRr (p : PairStk) | rst (t : BitVec 3) | ret | reti
  /-- The primary-table entry of 0xCB with the secondary opcode it reads (R100, R313): no instruction by itself. -/
  | prefixCb (op2 : Byte)
  | callA16 (a : Word) | ldhA8A (n : Byte) | ldhAA8 (n : Byte) | ldCA | ldAC
  | addSpE8 (e : Byte) | ldHlSpE8 (e : Byte) | jpHl | ldSpHl | ldA16A (a : Word) | ldAA16 (a : Word) | di | ei
  -- the secondary (0xCB-prefixed) table (R97)
  | rlcR (r : Reg8) | rlcHl | rrcR (r : Reg8) | rrcHl | rlR (r : Reg8) | rlHl | rrR (r : Reg8) | rrHl
  | slaR (r : Reg8) | slaHl | sraR (r : Reg8) | sraHl | swapR (r : Reg8) | swapHl | srlR (r : Reg8) | srlHl
  | bitBR (n : BitVec 3) (r : Reg8) | bitBHl (n : BitVec 3)
  | resBR (n : BitVec 3) (r : Reg8) | resBHl (n : BitVec 3)
  | setBR (n : BitVec 3) (r : Reg8) | setBHl (n : BitVec 3)
  deriving DecidableEq, Repr

end Sys2Proof
end

