-- ==== Sys2Proof/Machine/Operands.lean ====
section
/-! DEFINITION. The operand forms: registers, register pairs, conditions (rules R22, R36, R37, R38), and the shapes the
instruction rules share. -/

namespace Sys2Proof.Machine

/-! ## Registers and pairs -/

/-- `r8[i]` (R36). -/
def State.reg (s : State) : Reg8 → Byte
  | .b => s.b | .c => s.c | .d => s.d | .e => s.e | .h => s.h | .l => s.l | .a => s.a

/-- `r8[i] <- v` (R36). -/
def State.setReg (s : State) (r : Reg8) (v : Byte) : State :=
  match r with
  | .b => { s with b := v }
  | .c => { s with c := v }
  | .d => { s with d := v }
  | .e => { s with e := v }
  | .h => { s with h := v }
  | .l => { s with l := v }
  | .a => { s with a := v }

/-- BC = {B, C} (R22). -/
def State.bc (s : State) : Word := mkWord s.b s.c

/-- DE = {D, E} (R22). -/
def State.de (s : State) : Word := mkWord s.d s.e

/-- HL = {H, L} (R22). -/
def State.hl (s : State) : Word := mkWord s.h s.l

/-- AF = {A, F} (R22). -/
def State.af (s : State) : Word := mkWord s.a s.f

/-- BC <- v (R22). -/
def State.setBc (s : State) (v : Word) : State := (s.setReg .b (hiByte v)).setReg .c (loByte v)

/-- DE <- v (R22). -/
def State.setDe (s : State) (v : Word) : State := (s.setReg .d (hiByte v)).setReg .e (loByte v)

/-- HL <- v (R22). -/
def State.setHl (s : State) (v : Word) : State := (s.setReg .h (hiByte v)).setReg .l (loByte v)

/-- AF <- v: A <- hi(v), F <- lo(v) & 0xF0 (R22, R23). -/
def State.setAf (s : State) (v : Word) : State := (s.setReg .a (hiByte v)).setF (loByte v)

/-- `r16a[i]` (R37). -/
def State.pair16 (s : State) : Pair16 → Word
  | .bc => s.bc | .de => s.de | .hl => s.hl | .sp => s.sp

/-- `r16a[i] <- v` (R37). -/
def State.setPair16 (s : State) (p : Pair16) (v : Word) : State :=
  match p with
  | .bc => s.setBc v
  | .de => s.setDe v
  | .hl => s.setHl v
  | .sp => s.setSp v

/-- `r16b[i]` (R37). -/
def State.pairStk (s : State) : PairStk → Word
  | .bc => s.bc | .de => s.de | .hl => s.hl | .af => s.af

/-- `r16b[i] <- v` (R37). -/
def State.setPairStk (s : State) (p : PairStk) (v : Word) : State :=
  match p with
  | .bc => s.setBc v
  | .de => s.setDe v
  | .hl => s.setHl v
  | .af => s.setAf v

/-- `Cond(cc)` on F (R9, R38). -/
def condHolds (cc : Cond) (f : Byte) : Bool :=
  match cc with
  | .nz => !flagZ f
  | .z => flagZ f
  | .nc => !flagC f
  | .c => flagC f

/-- The address 0xFF00 + n of the high-page forms (R69, R92). -/
def State.highAddr (s : State) (n : Byte) : Word := s.config.highPage + n.setWidth 16

/-- The target of a relative jump from an instruction at PC: `pc0 + 2 + sext8(e)` (R92, R270). -/
def State.relTarget (s : State) (e : Byte) : Word := s.pc + 2 + sext8 e

/-! ## Shapes shared by the instruction rules -/

/-- What an accumulator operation computes from A, the operand and the carry flag: the result and F (R171). -/
abbrev AccOp := Byte → Byte → Bool → Byte × Byte

/-- `(A, flags) <- op(A, v, Cy); PC <- pc0 + len`. -/
def State.accumulate (s : State) (op : AccOp) (v : Byte) (len : Nat) : State :=
  ((s.setReg .a (op s.a v (flagC s.f)).1).setF (op s.a v (flagC s.f)).2).advance len

/-- `(_, flags) <- op(A, v, Cy); PC <- pc0 + len`: A is not written (R193). -/
def State.compare (s : State) (op : AccOp) (v : Byte) (len : Nat) : State :=
  (s.setF (op s.a v (flagC s.f)).2).advance len

/-- Read the byte at an address in its own machine cycle and go on with it. -/
def State.withRead (s : State) (a : Word) (k : Byte → State → State) : State := k (s.read8 a).1 (s.read8 a).2

/-- A prefixed shift or rotate on a register, after `CBFetch`: the register and F are written (R231 to R245). -/
def State.shiftReg (s : State) (op : Byte → Bool → Byte × Bool) (r : Reg8) : State :=
  ((s.setReg r (op (s.reg r) (flagC s.f)).1).setF (shiftFlags (op (s.reg r) (flagC s.f)))).advance 2

/-- A prefixed shift or rotate on the byte at HL, after `CBFetch`: read, flags, write (R232 to R246). -/
def State.shiftHl (s : State) (op : Byte → Bool → Byte × Bool) : State :=
  s.withRead s.hl fun x s => ((s.setF (shiftFlags (op x (flagC s.f)))).write8 s.hl (op x (flagC s.f)).1).advance 2

/-- An accumulator rotate: A and F are written, Z from `ACC_ROT_Z` (R204 to R207). -/
def State.rotateAcc (s : State) (op : Byte → Bool → Byte × Bool) : State :=
  ((s.setReg .a (op s.a (flagC s.f)).1).setF (accRotFlags s.config.accRotZ (op s.a (flagC s.f)).2)).advance 1

end Sys2Proof.Machine
end

