-- ==== Sys2Proof/Machine/Alu8.lean ====
section
/-! DEFINITION. The 8-bit arithmetic, logic, increment, decrement, decimal adjust, flag and accumulator-rotate
instructions, one meaning each (41_alu8.md, rules R170 to R207). -/

namespace Sys2Proof.Machine

/-! ## Add, subtract, logic, compare on the accumulator -/

/-- `ADD A,r` (R172). -/
def execAddAR (r : Reg8) (s : State) : Host.Outcome State Fault Refusal :=
  .next (s.begin1.accumulate (fun a v _ => add8 a v) (s.begin1.reg r) 1)

/-- `ADD A,(HL)` (R173). -/
def execAddAHl (s : State) : Host.Outcome State Fault Refusal :=
  .next (s.begin1.withRead s.begin1.hl fun v s => s.accumulate (fun a v _ => add8 a v) v 1)

/-- `ADD A,d8` (R174). -/
def execAddAD8 (n : Byte) (s : State) : Host.Outcome State Fault Refusal :=
  .next (s.begin2.accumulate (fun a v _ => add8 a v) n 2)

/-- `ADC A,r` (R175). -/
def execAdcAR (r : Reg8) (s : State) : Host.Outcome State Fault Refusal :=
  .next (s.begin1.accumulate adc8 (s.begin1.reg r) 1)

/-- `ADC A,(HL)` (R176). -/
def execAdcAHl (s : State) : Host.Outcome State Fault Refusal :=
  .next (s.begin1.withRead s.begin1.hl fun v s => s.accumulate adc8 v 1)

/-- `ADC A,d8` (R177). -/
def execAdcAD8 (n : Byte) (s : State) : Host.Outcome State Fault Refusal :=
  .next (s.begin2.accumulate adc8 n 2)

/-- `SUB r` (R178). -/
def execSubR (r : Reg8) (s : State) : Host.Outcome State Fault Refusal :=
  .next (s.begin1.accumulate (fun a v _ => sub8 a v) (s.begin1.reg r) 1)

/-- `SUB (HL)` (R179). -/
def execSubHl (s : State) : Host.Outcome State Fault Refusal :=
  .next (s.begin1.withRead s.begin1.hl fun v s => s.accumulate (fun a v _ => sub8 a v) v 1)

/-- `SUB d8` (R180). -/
def execSubD8 (n : Byte) (s : State) : Host.Outcome State Fault Refusal :=
  .next (s.begin2.accumulate (fun a v _ => sub8 a v) n 2)

/-- `SBC A,r` (R181). -/
def execSbcAR (r : Reg8) (s : State) : Host.Outcome State Fault Refusal :=
  .next (s.begin1.accumulate sbc8 (s.begin1.reg r) 1)

/-- `SBC A,(HL)` (R182). -/
def execSbcAHl (s : State) : Host.Outcome State Fault Refusal :=
  .next (s.begin1.withRead s.begin1.hl fun v s => s.accumulate sbc8 v 1)

/-- `SBC A,d8` (R183). -/
def execSbcAD8 (n : Byte) (s : State) : Host.Outcome State Fault Refusal :=
  .next (s.begin2.accumulate sbc8 n 2)

/-- `AND r` (R184). -/
def execAndR (r : Reg8) (s : State) : Host.Outcome State Fault Refusal :=
  .next (s.begin1.accumulate (fun a v _ => and8 a v) (s.begin1.reg r) 1)

/-- `AND (HL)` (R185). -/
def execAndHl (s : State) : Host.Outcome State Fault Refusal :=
  .next (s.begin1.withRead s.begin1.hl fun v s => s.accumulate (fun a v _ => and8 a v) v 1)

/-- `AND d8` (R186). -/
def execAndD8 (n : Byte) (s : State) : Host.Outcome State Fault Refusal :=
  .next (s.begin2.accumulate (fun a v _ => and8 a v) n 2)

/-- `XOR r` (R187). -/
def execXorR (r : Reg8) (s : State) : Host.Outcome State Fault Refusal :=
  .next (s.begin1.accumulate (fun a v _ => xor8 a v) (s.begin1.reg r) 1)

/-- `XOR (HL)` (R188). -/
def execXorHl (s : State) : Host.Outcome State Fault Refusal :=
  .next (s.begin1.withRead s.begin1.hl fun v s => s.accumulate (fun a v _ => xor8 a v) v 1)

/-- `XOR d8` (R189). -/
def execXorD8 (n : Byte) (s : State) : Host.Outcome State Fault Refusal :=
  .next (s.begin2.accumulate (fun a v _ => xor8 a v) n 2)

/-- `OR r` (R190). -/
def execOrR (r : Reg8) (s : State) : Host.Outcome State Fault Refusal :=
  .next (s.begin1.accumulate (fun a v _ => or8 a v) (s.begin1.reg r) 1)

/-- `OR (HL)` (R191). -/
def execOrHl (s : State) : Host.Outcome State Fault Refusal :=
  .next (s.begin1.withRead s.begin1.hl fun v s => s.accumulate (fun a v _ => or8 a v) v 1)

/-- `OR d8` (R192). -/
def execOrD8 (n : Byte) (s : State) : Host.Outcome State Fault Refusal :=
  .next (s.begin2.accumulate (fun a v _ => or8 a v) n 2)

/-- `CP r` (R193). -/
def execCpR (r : Reg8) (s : State) : Host.Outcome State Fault Refusal :=
  .next (s.begin1.compare (fun a v _ => sub8 a v) (s.begin1.reg r) 1)

/-- `CP (HL)` (R194). -/
def execCpHl (s : State) : Host.Outcome State Fault Refusal :=
  .next (s.begin1.withRead s.begin1.hl fun v s => s.compare (fun a v _ => sub8 a v) v 1)

/-- `CP d8` (R195). -/
def execCpD8 (n : Byte) (s : State) : Host.Outcome State Fault Refusal :=
  .next (s.begin2.compare (fun a v _ => sub8 a v) n 2)

/-! ## Increment and decrement of a byte -/

/-- `INC r` (R196). -/
def execIncR (r : Reg8) (s : State) : Host.Outcome State Fault Refusal :=
  let s := s.begin1
  let x := inc8 (s.reg r) s.f
  .next (((s.setReg r x.1).setF x.2).advance 1)

/-- `INC (HL)` (R197): one read and one write with a tick between them. -/
def execIncHl (s : State) : Host.Outcome State Fault Refusal :=
  .next (s.begin1.withRead s.begin1.hl fun x s => ((s.setF (inc8 x s.f).2).write8 s.hl (inc8 x s.f).1).advance 1)

/-- `DEC r` (R198). -/
def execDecR (r : Reg8) (s : State) : Host.Outcome State Fault Refusal :=
  let s := s.begin1
  let x := dec8 (s.reg r) s.f
  .next (((s.setReg r x.1).setF x.2).advance 1)

/-- `DEC (HL)` (R199): one read and one write with a tick between them. -/
def execDecHl (s : State) : Host.Outcome State Fault Refusal :=
  .next (s.begin1.withRead s.begin1.hl fun x s => ((s.setF (dec8 x s.f).2).write8 s.hl (dec8 x s.f).1).advance 1)

/-! ## Decimal adjust and flag operations -/

/-- `DAA` (R200). -/
def execDaa (s : State) : Host.Outcome State Fault Refusal :=
  let s := s.begin1
  let x := daa8 s.a s.f
  .next (((s.setReg .a x.1).setF x.2).advance 1)

/-- `CPL` (R201). -/
def execCpl (s : State) : Host.Outcome State Fault Refusal :=
  let s := s.begin1
  .next (((s.setReg .a (s.a ^^^ 0xFF)).setF (packFlags (flagZ s.f) true true (flagC s.f))).advance 1)

/-- `SCF` (R202). -/
def execScf (s : State) : Host.Outcome State Fault Refusal :=
  let s := s.begin1
  .next ((s.setF (packFlags (flagZ s.f) false false true)).advance 1)

/-- `CCF` (R203). -/
def execCcf (s : State) : Host.Outcome State Fault Refusal :=
  let s := s.begin1
  .next ((s.setF (packFlags (flagZ s.f) false false (!flagC s.f))).advance 1)

/-! ## Accumulator rotates -/

/-- `RLCA` (R204). -/
def execRlca (s : State) : Host.Outcome State Fault Refusal :=
  .next (s.begin1.rotateAcc (fun x _ => rlc8 x))

/-- `RRCA` (R205). -/
def execRrca (s : State) : Host.Outcome State Fault Refusal :=
  .next (s.begin1.rotateAcc (fun x _ => rrc8 x))

/-- `RLA` (R206). -/
def execRla (s : State) : Host.Outcome State Fault Refusal :=
  .next (s.begin1.rotateAcc rl8)

/-- `RRA` (R207). -/
def execRra (s : State) : Host.Outcome State Fault Refusal :=
  .next (s.begin1.rotateAcc rr8)

end Sys2Proof.Machine
end

