-- ==== Sys2Proof/Machine/Control.lean ====
section
/-! DEFINITION. The control-transfer instructions, one meaning each (43_control_transfer.md, rules R270 to R281). -/

namespace Sys2Proof.Machine

/-! ## Jumps -/

/-- `JP a16` (R271). -/
def execJpA16 (a : Word) (s : State) : Host.Outcome State Fault Refusal :=
  .next (s.begin3.cycle.setPc a)

/-- `JP cc,a16` (R272): the operand is read whether or not the condition holds. -/
def execJpCcA16 (cc : Cond) (a : Word) (s : State) : Host.Outcome State Fault Refusal :=
  let s := s.begin3
  if condHolds cc s.f then .next (s.cycle.setPc a) else .next (s.advance 3)

/-- `JP HL` (R273): no memory is read at HL. -/
def execJpHl (s : State) : Host.Outcome State Fault Refusal :=
  .next (s.begin1.setPc s.begin1.hl)

/-- `JR e8` (R274). -/
def execJrE8 (e : Byte) (s : State) : Host.Outcome State Fault Refusal :=
  let s := s.begin2.cycle
  .next (s.setPc (s.relTarget e))

/-- `JR cc,e8` (R275). -/
def execJrCcE8 (cc : Cond) (e : Byte) (s : State) : Host.Outcome State Fault Refusal :=
  let s := s.begin2
  if condHolds cc s.f then .next (s.cycle.setPc (s.relTarget e)) else .next (s.advance 2)

/-! ## Calls, returns, restarts -/

/-- `CALL a16` (R276): the internal cycle precedes the two stack writes. -/
def execCallA16 (a : Word) (s : State) : Host.Outcome State Fault Refusal :=
  let s := s.begin3.cycle
  .next ((s.push16 (s.pc + 3)).setPc a)

/-- `CALL cc,a16` (R277). -/
def execCallCcA16 (cc : Cond) (a : Word) (s : State) : Host.Outcome State Fault Refusal :=
  let s := s.begin3
  if condHolds cc s.f then .next ((s.cycle.push16 (s.pc + 3)).setPc a) else .next (s.advance 3)

/-- `RET` (R278). -/
def execRet (s : State) : Host.Outcome State Fault Refusal :=
  let p := s.begin1.pop16
  .next (p.2.cycle.setPc p.1)

/-- `RET cc` (R279): the condition is evaluated in an internal cycle. -/
def execRetCc (cc : Cond) (s : State) : Host.Outcome State Fault Refusal :=
  let s := s.begin1.cycle
  let p := s.pop16
  if condHolds cc s.f then .next (p.2.cycle.setPc p.1) else .next (s.advance 1)

/-- `RETI` (R280). -/
def execReti (s : State) : Host.Outcome State Fault Refusal :=
  .next s.begin1.returnFromInterrupt

/-- `RST t` (R281): the target is 8*t. -/
def execRst (t : BitVec 3) (s : State) : Host.Outcome State Fault Refusal :=
  let s := s.begin1.cycle
  .next ((s.push16 (s.pc + 1)).setPc (BitVec.ofNat 16 (8 * t.toNat)))

end Sys2Proof.Machine
end

