-- ==== Sys2Proof/Machine/Loads.lean ====
section
/-! DEFINITION. The load and store instructions, one meaning each (40_loads_stores.md, rules R130 to R153). -/

namespace Sys2Proof.Machine

/-! ## 8-bit loads -/

/-- `LD r,r'` (R131). -/
def execLdRR (dst src : Reg8) (s : State) : Host.Outcome State Fault Refusal :=
  .next ((s.begin1.setReg dst (s.begin1.reg src)).advance 1)

/-- `LD r,(HL)` (R132): the address is formed before the destination is written. -/
def execLdRHl (dst : Reg8) (s : State) : Host.Outcome State Fault Refusal :=
  .next (s.begin1.withRead s.begin1.hl fun v s => (s.setReg dst v).advance 1)

/-- `LD (HL),r` (R133). -/
def execLdHlR (src : Reg8) (s : State) : Host.Outcome State Fault Refusal :=
  .next ((s.begin1.write8 s.begin1.hl (s.begin1.reg src)).advance 1)

/-- `LD r,d8` (R134). -/
def execLdRD8 (r : Reg8) (n : Byte) (s : State) : Host.Outcome State Fault Refusal :=
  .next ((s.begin2.setReg r n).advance 2)

/-- `LD (HL),d8` (R135): the immediate is read before the write. -/
def execLdHlD8 (n : Byte) (s : State) : Host.Outcome State Fault Refusal :=
  .next ((s.begin2.write8 s.begin2.hl n).advance 2)

/-! ## Accumulator loads and stores through BC, DE, HL+ and HL- -/

/-- `LD A,(BC)` (R136). -/
def execLdABc (s : State) : Host.Outcome State Fault Refusal :=
  .next (s.begin1.withRead s.begin1.bc fun v s => (s.setReg .a v).advance 1)

/-- `LD A,(DE)` (R137). -/
def execLdADe (s : State) : Host.Outcome State Fault Refusal :=
  .next (s.begin1.withRead s.begin1.de fun v s => (s.setReg .a v).advance 1)

/-- `LD (BC),A` (R138). -/
def execLdBcA (s : State) : Host.Outcome State Fault Refusal :=
  .next ((s.begin1.write8 s.begin1.bc s.begin1.a).advance 1)

/-- `LD (DE),A` (R139). -/
def execLdDeA (s : State) : Host.Outcome State Fault Refusal :=
  .next ((s.begin1.write8 s.begin1.de s.begin1.a).advance 1)

/-- `LD A,(HL+)` (R140): the pointer is incremented after the access. -/
def execLdAHli (s : State) : Host.Outcome State Fault Refusal :=
  .next (s.begin1.withRead s.begin1.hl fun v s => ((s.setReg .a v).setHl (s.hl + 1)).advance 1)

/-- `LD A,(HL-)` (R141): the pointer is decremented after the access. -/
def execLdAHld (s : State) : Host.Outcome State Fault Refusal :=
  .next (s.begin1.withRead s.begin1.hl fun v s => ((s.setReg .a v).setHl (s.hl - 1)).advance 1)

/-- `LD (HL+),A` (R142). -/
def execLdHliA (s : State) : Host.Outcome State Fault Refusal :=
  let s := s.begin1.write8 s.begin1.hl s.begin1.a
  .next ((s.setHl (s.hl + 1)).advance 1)

/-- `LD (HL-),A` (R143). -/
def execLdHldA (s : State) : Host.Outcome State Fault Refusal :=
  let s := s.begin1.write8 s.begin1.hl s.begin1.a
  .next ((s.setHl (s.hl - 1)).advance 1)

/-! ## Absolute and high-page accumulator loads and stores -/

/-- `LD A,(a16)` (R144). -/
def execLdAA16 (a : Word) (s : State) : Host.Outcome State Fault Refusal :=
  .next (s.begin3.withRead a fun v s => (s.setReg .a v).advance 3)

/-- `LD (a16),A` (R145). -/
def execLdA16A (a : Word) (s : State) : Host.Outcome State Fault Refusal :=
  .next ((s.begin3.write8 a s.begin3.a).advance 3)

/-- `LDH A,(a8)` (R146). -/
def execLdhAA8 (n : Byte) (s : State) : Host.Outcome State Fault Refusal :=
  .next (s.begin2.withRead (s.begin2.highAddr n) fun v s => (s.setReg .a v).advance 2)

/-- `LDH (a8),A` (R147). -/
def execLdhA8A (n : Byte) (s : State) : Host.Outcome State Fault Refusal :=
  .next ((s.begin2.write8 (s.begin2.highAddr n) s.begin2.a).advance 2)

/-- `LD A,(C)` (R148). -/
def execLdAC (s : State) : Host.Outcome State Fault Refusal :=
  .next (s.begin1.withRead (s.begin1.highAddr s.begin1.c) fun v s => (s.setReg .a v).advance 1)

/-- `LD (C),A` (R149). -/
def execLdCA (s : State) : Host.Outcome State Fault Refusal :=
  .next ((s.begin1.write8 (s.begin1.highAddr s.begin1.c) s.begin1.a).advance 1)

/-! ## 16-bit loads -/

/-- `LD rr,d16` (R150). -/
def execLdRrD16 (p : Pair16) (v : Word) (s : State) : Host.Outcome State Fault Refusal :=
  .next ((s.begin3.setPair16 p v).advance 3)

/-- `LD (a16),SP` (R151): the low byte first, at a, then the high byte at a + 1. -/
def execLdA16Sp (a : Word) (s : State) : Host.Outcome State Fault Refusal :=
  let s := s.begin3
  let s := s.write8 a (loByte s.sp)
  .next ((s.write8 (a + 1) (hiByte s.sp)).advance 3)

/-- `LD SP,HL` (R152): one internal cycle after the transfer. -/
def execLdSpHl (s : State) : Host.Outcome State Fault Refusal :=
  .next ((s.begin1.setSp s.begin1.hl).cycle.advance 1)

/-- `LD HL,SP+e8` (R153). -/
def execLdHlSpE8 (e : Byte) (s : State) : Host.Outcome State Fault Refusal :=
  let s := s.begin2
  let x := addSpSigned s.sp e
  .next (((s.setF x.2).setHl x.1).cycle.advance 2)

end Sys2Proof.Machine
end

