-- ==== Sys2Proof/Machine/Misc.lean ====
section
/-! DEFINITION. The stack, 16-bit arithmetic and CPU-control instructions and the undefined opcodes, one meaning each
(44_misc_control.md, rules R300 to R314). -/

namespace Sys2Proof.Machine

/-! ## No-op and stack -/

/-- `NOP` (R301). -/
def execNop (s : State) : Host.Outcome State Fault Refusal :=
  .next (s.begin1.advance 1)

/-- `PUSH rr` (R302). -/
def execPushRr (p : PairStk) (s : State) : Host.Outcome State Fault Refusal :=
  let s := s.begin1.cycle
  .next ((s.push16 (s.pairStk p)).advance 1)

/-- `POP rr` (R303). -/
def execPopRr (p : PairStk) (s : State) : Host.Outcome State Fault Refusal :=
  let v := s.begin1.pop16
  .next ((v.2.setPairStk p v.1).advance 1)

/-- `POP AF` (R314): bits 3 to 0 of the byte read at the old SP are discarded. -/
def execPopAf (s : State) : Host.Outcome State Fault Refusal :=
  let v := s.begin1.pop16
  .next ((v.2.setAf v.1).advance 1)

/-! ## 16-bit arithmetic -/

/-- `ADD HL,rr` (R304). -/
def execAddHlRr (p : Pair16) (s : State) : Host.Outcome State Fault Refusal :=
  let s := s.begin1
  let x := addWord s.hl (s.pair16 p) s.f
  .next (((s.setHl x.1).setF x.2).cycle.advance 1)

/-- `INC rr` (R305): no flag changes. -/
def execIncRr (p : Pair16) (s : State) : Host.Outcome State Fault Refusal :=
  let s := s.begin1
  .next ((s.setPair16 p (s.pair16 p + 1)).cycle.advance 1)

/-- `DEC rr` (R306): no flag changes. -/
def execDecRr (p : Pair16) (s : State) : Host.Outcome State Fault Refusal :=
  let s := s.begin1
  .next ((s.setPair16 p (s.pair16 p - 1)).cycle.advance 1)

/-- `ADD SP,e8` (R307): two internal cycles. -/
def execAddSpE8 (e : Byte) (s : State) : Host.Outcome State Fault Refusal :=
  let s := s.begin2
  let x := addSpSigned s.sp e
  .next (((s.setF x.2).cycle.cycle.setSp x.1).advance 2)

/-! ## Interrupt enable, halt, stop -/

/-- `DI` (R308): `IME_next <- 0`, and `IME <- 0` when not `DI_DELAYED`. -/
def execDi (s : State) : Host.Outcome State Fault Refusal :=
  let s := s.begin1
  .next (((s.setImeNext false).setIme (s.config.diDelayed && s.ime)).advance 1)

/-- `EI` (R309): `IME` is not written. -/
def execEi (s : State) : Host.Outcome State Fault Refusal :=
  .next ((s.begin1.setImeNext true).advance 1)

/-- `HALT` (R310). -/
def execHalt (s : State) : Host.Outcome State Fault Refusal :=
  .next ((s.begin1.setRunning false).advance 1)

/-- `STOP` (R311): the pad byte is not read. -/
def execStop (s : State) : Host.Outcome State Fault Refusal :=
  let s := s.begin1
  .next ((s.setStopped true).advance s.config.stopLength)

/-! ## The eleven undefined opcodes (R99, R312) -/

/-- `Tick(UNDEF_TICKS); PC <- pc0 + 1`: the one-byte skip of an undefined opcode (R312). -/
def State.skipUndefined (s : State) : State := (s.tick s.config.undefTicks).advance 1

/-- `UNDEF D3h` (R312). -/
def execUndefD3 (s : State) : Host.Outcome State Fault Refusal :=
  .next s.skipUndefined

/-- `UNDEF DBh` (R312). -/
def execUndefDB (s : State) : Host.Outcome State Fault Refusal :=
  .next s.skipUndefined

/-- `UNDEF DDh` (R312). -/
def execUndefDD (s : State) : Host.Outcome State Fault Refusal :=
  .next s.skipUndefined

/-- `UNDEF E3h` (R312). -/
def execUndefE3 (s : State) : Host.Outcome State Fault Refusal :=
  .next s.skipUndefined

/-- `UNDEF E4h` (R312). -/
def execUndefE4 (s : State) : Host.Outcome State Fault Refusal :=
  .next s.skipUndefined

/-- `UNDEF EBh` (R312). -/
def execUndefEB (s : State) : Host.Outcome State Fault Refusal :=
  .next s.skipUndefined

/-- `UNDEF ECh` (R312). -/
def execUndefEC (s : State) : Host.Outcome State Fault Refusal :=
  .next s.skipUndefined

/-- `UNDEF EDh` (R312). -/
def execUndefED (s : State) : Host.Outcome State Fault Refusal :=
  .next s.skipUndefined

/-- `UNDEF F4h` (R312). -/
def execUndefF4 (s : State) : Host.Outcome State Fault Refusal :=
  .next s.skipUndefined

/-- `UNDEF FCh` (R312). -/
def execUndefFC (s : State) : Host.Outcome State Fault Refusal :=
  .next s.skipUndefined

/-- `UNDEF FDh` (R312). -/
def execUndefFD (s : State) : Host.Outcome State Fault Refusal :=
  .next s.skipUndefined

end Sys2Proof.Machine
end

