-- ==== Sys2Proof/Decode.lean ====
section
/-! DEFINITION. The decoder, built as the spec builds its dispatch tables (rules R94 to R100): bit-pattern rules in declaration
order, compiled so that a later rule overrides an earlier one; the two rule lists of rules R96 and R97; the encoder, from the
same encodings; and the words of spec/opcode_table.json. -/

namespace Sys2Proof
open Sys2Proof.Machine

/-! ## Operand fields (rules R36, R37, R38, R93) -/

/-- `r8[i]`; field value 6 names no register (R36). -/
def Reg8.ofField : Nat → Option Reg8
  | 0 => some .b | 1 => some .c | 2 => some .d | 3 => some .e | 4 => some .h | 5 => some .l | 7 => some .a | _ => none

/-- The field value of an 8-bit register (R36). -/
def Reg8.field : Reg8 → Byte
  | .b => 0 | .c => 1 | .d => 2 | .e => 3 | .h => 4 | .l => 5 | .a => 7

/-- `r16a[i]` (R37). -/
def Pair16.ofField : Nat → Option Pair16
  | 0 => some .bc | 1 => some .de | 2 => some .hl | 3 => some .sp | _ => none

/-- The field value of an `r16a` operand (R37). -/
def Pair16.field : Pair16 → Byte
  | .bc => 0 | .de => 1 | .hl => 2 | .sp => 3

/-- `r16b[i]` (R37). -/
def PairStk.ofField : Nat → Option PairStk
  | 0 => some .bc | 1 => some .de | 2 => some .hl | 3 => some .af | _ => none

/-- The field value of an `r16b` operand (R37). -/
def PairStk.field : PairStk → Byte
  | .bc => 0 | .de => 1 | .hl => 2 | .af => 3

/-- The condition field `cc` (R38). -/
def Cond.ofField : Nat → Option Cond
  | 0 => some .nz | 1 => some .z | 2 => some .nc | 3 => some .c | _ => none

/-- The field value of a condition (R38). -/
def Cond.field : Cond → Byte
  | .nz => 0 | .z => 1 | .nc => 2 | .c => 3

/-- `PREFIX`: the byte that selects the secondary table (R5, R100). -/
def prefixByte : Byte := 0xCB

/-! ## The dispatch-rule pattern language (rules R94, R95) -/

/-- One character of a pattern: a fixed 0 (`o`) or 1 (`i`), or a field letter (R94). -/
inductive PatBit
  | o | i | b | c | d | r | s | t
  deriving DecidableEq, Repr

/-- A pattern: eight characters, bit 7 first (R94). -/
abbrev Pattern := List PatBit

/-- Whether a pattern character admits a bit value: a letter marks a free bit (R94). -/
def PatBit.admits : PatBit → Bool → Bool
  | .o, x => !x
  | .i, x => x
  | _, _ => true

/-- "The pattern matches the byte values that agree with all its `0`/`1` characters" (R94). -/
def patternMatches : Pattern → Byte → Bool
  | [], _ => true
  | q :: qs, v => q.admits (v.getLsbD qs.length) && patternMatches qs v

/-- The field of a letter: its occurrences read most significant bit first (R94). -/
def patternField (x : PatBit) : Pattern → Byte → Nat → Nat
  | [], _, acc => acc
  | q :: qs, v, acc => patternField x qs v (if q = x then 2 * acc + b2i (v.getLsbD qs.length) else acc)

/-- A dispatch rule: the pattern, the length in bytes, the field values a later rule takes (the table's `constraints`), and
the generator, from the decoded fields and the two bytes after the opcode to the instruction (R94, R95, R96). -/
structure DispatchRule where
  pattern : Pattern
  length : Nat
  excluded : List (PatBit × Nat)
  gen : (PatBit → Nat) → Byte → Byte → Option Instr

/-- The rule matches an opcode value. -/
def DispatchRule.agrees (q : DispatchRule) (v : Byte) : Bool := patternMatches q.pattern v

/-- The decoded fields of an opcode value under the rule. -/
def DispatchRule.fields (q : DispatchRule) (v : Byte) (x : PatBit) : Nat := patternField x q.pattern v 0

/-- The rule matches an opcode value and no `constraints` entry excludes it (R95). -/
def DispatchRule.agreesConstrained (q : DispatchRule) (v : Byte) : Bool :=
  q.agrees v && q.excluded.all (fun x => q.fields v x.1 != x.2)

/-- The compiled table's slot for an opcode value: rules are applied in declaration order and "the *later*-declared rule's
generated handler overwrites the earlier one's slot" (R95). -/
def slot (rules : List DispatchRule) (v : Byte) : Option DispatchRule :=
  rules.foldl (fun found q => if q.agrees v then some q else found) none

section Tables
open PatBit

/-- The eleven undefined opcodes, declared first so that every slot is filled (R96, R99). -/
def undefRules : List DispatchRule := [
  -- 0: UNDEF D3h (R312)
  ⟨[i,i,o,i,o,o,i,i], 1, [], fun _ _ _ => some .undefD3⟩,
  -- 1: UNDEF DBh (R312)
  ⟨[i,i,o,i,i,o,i,i], 1, [], fun _ _ _ => some .undefDB⟩,
  -- 2: UNDEF DDh (R312)
  ⟨[i,i,o,i,i,i,o,i], 1, [], fun _ _ _ => some .undefDD⟩,
  -- 3: UNDEF E3h (R312)
  ⟨[i,i,i,o,o,o,i,i], 1, [], fun _ _ _ => some .undefE3⟩,
  -- 4: UNDEF E4h (R312)
  ⟨[i,i,i,o,o,i,o,o], 1, [], fun _ _ _ => some .undefE4⟩,
  -- 5: UNDEF EBh (R312)
  ⟨[i,i,i,o,i,o,i,i], 1, [], fun _ _ _ => some .undefEB⟩,
  -- 6: UNDEF ECh (R312)
  ⟨[i,i,i,o,i,i,o,o], 1, [], fun _ _ _ => some .undefEC⟩,
  -- 7: UNDEF EDh (R312)
  ⟨[i,i,i,o,i,i,o,i], 1, [], fun _ _ _ => some .undefED⟩,
  -- 8: UNDEF F4h (R312)
  ⟨[i,i,i,i,o,i,o,o], 1, [], fun _ _ _ => some .undefF4⟩,
  -- 9: UNDEF FCh (R312)
  ⟨[i,i,i,i,i,i,o,o], 1, [], fun _ _ _ => some .undefFC⟩,
  -- 10: UNDEF FDh (R312)
  ⟨[i,i,i,i,i,i,o,i], 1, [], fun _ _ _ => some .undefFD⟩]

/-- Rows 11 to 23 of the primary table: NOP, 16-bit loads and arithmetic, pointer loads (R96). -/
def loadRulesLow : List DispatchRule := [
  -- 11: NOP (R301)
  ⟨[o,o,o,o,o,o,o,o], 1, [], fun _ _ _ => some .nop⟩,
  -- 12: LD rr,d16 (R150)
  ⟨[o,o,r,r,o,o,o,i], 3, [], fun fl l h => (Pair16.ofField (fl r)).map fun p => .ldRrD16 p (mkWord h l)⟩,
  -- 13: LD (BC),A (R138)
  ⟨[o,o,o,o,o,o,i,o], 1, [], fun _ _ _ => some .ldBcA⟩,
  -- 14: LD (DE),A (R139)
  ⟨[o,o,o,i,o,o,i,o], 1, [], fun _ _ _ => some .ldDeA⟩,
  -- 15: LD (HL+),A (R142)
  ⟨[o,o,i,o,o,o,i,o], 1, [], fun _ _ _ => some .ldHliA⟩,
  -- 16: LD (HL-),A (R143)
  ⟨[o,o,i,i,o,o,i,o], 1, [], fun _ _ _ => some .ldHldA⟩,
  -- 17: LD A,(BC) (R136)
  ⟨[o,o,o,o,i,o,i,o], 1, [], fun _ _ _ => some .ldABc⟩,
  -- 18: LD A,(DE) (R137)
  ⟨[o,o,o,i,i,o,i,o], 1, [], fun _ _ _ => some .ldADe⟩,
  -- 19: LD A,(HL+) (R140)
  ⟨[o,o,i,o,i,o,i,o], 1, [], fun _ _ _ => some .ldAHli⟩,
  -- 20: LD A,(HL-) (R141)
  ⟨[o,o,i,i,i,o,i,o], 1, [], fun _ _ _ => some .ldAHld⟩,
  -- 21: INC rr (R305)
  ⟨[o,o,r,r,o,o,i,i], 1, [], fun fl _ _ => (Pair16.ofField (fl r)).map .incRr⟩,
  -- 22: DEC rr (R306)
  ⟨[o,o,r,r,i,o,i,i], 1, [], fun fl _ _ => (Pair16.ofField (fl r)).map .decRr⟩,
  -- 23: ADD HL,rr (R304)
  ⟨[o,o,r,r,i,o,o,i], 1, [], fun fl _ _ => (Pair16.ofField (fl r)).map .addHlRr⟩]

/-- Rows 24 to 37: byte increments, immediate loads, accumulator and flag operations (R96). -/
def byteRules : List DispatchRule := [
  -- 24: INC r (R196)
  ⟨[o,o,r,r,r,i,o,o], 1, [(r, 6)], fun fl _ _ => (Reg8.ofField (fl r)).map .incR⟩,
  -- 25: INC (HL) (R197)
  ⟨[o,o,i,i,o,i,o,o], 1, [], fun _ _ _ => some .incHl⟩,
  -- 26: DEC r (R198)
  ⟨[o,o,r,r,r,i,o,i], 1, [(r, 6)], fun fl _ _ => (Reg8.ofField (fl r)).map .decR⟩,
  -- 27: DEC (HL) (R199)
  ⟨[o,o,i,i,o,i,o,i], 1, [], fun _ _ _ => some .decHl⟩,
  -- 28: LD r,d8 (R134)
  ⟨[o,o,r,r,r,i,i,o], 2, [(r, 6)], fun fl n _ => (Reg8.ofField (fl r)).map fun x => .ldRD8 x n⟩,
  -- 29: LD (HL),d8 (R135)
  ⟨[o,o,i,i,o,i,i,o], 2, [], fun _ n _ => some (.ldHlD8 n)⟩,
  -- 30: RLCA (R204)
  ⟨[o,o,o,o,o,i,i,i], 1, [], fun _ _ _ => some .rlca⟩,
  -- 31: RRCA (R205)
  ⟨[o,o,o,o,i,i,i,i], 1, [], fun _ _ _ => some .rrca⟩,
  -- 32: RLA (R206)
  ⟨[o,o,o,i,o,i,i,i], 1, [], fun _ _ _ => some .rla⟩,
  -- 33: RRA (R207)
  ⟨[o,o,o,i,i,i,i,i], 1, [], fun _ _ _ => some .rra⟩,
  -- 34: DAA (R200)
  ⟨[o,o,i,o,o,i,i,i], 1, [], fun _ _ _ => some .daa⟩,
  -- 35: CPL (R201)
  ⟨[o,o,i,o,i,i,i,i], 1, [], fun _ _ _ => some .cpl⟩,
  -- 36: SCF (R202)
  ⟨[o,o,i,i,o,i,i,i], 1, [], fun _ _ _ => some .scf⟩,
  -- 37: CCF (R203)
  ⟨[o,o,i,i,i,i,i,i], 1, [], fun _ _ _ => some .ccf⟩]

/-- Rows 38 to 45: SP store, STOP, relative jumps, register moves, HALT (R96). -/
def moveRules : List DispatchRule := [
  -- 38: LD (a16),SP (R151)
  ⟨[o,o,o,o,i,o,o,o], 3, [], fun _ l h => some (.ldA16Sp (mkWord h l))⟩,
  -- 39: STOP (R311)
  ⟨[o,o,o,i,o,o,o,o], 2, [], fun _ _ _ => some .stop⟩,
  -- 40: JR e8 (R274)
  ⟨[o,o,o,i,i,o,o,o], 2, [], fun _ n _ => some (.jrE8 n)⟩,
  -- 41: JR cc,e8 (R275)
  ⟨[o,o,i,c,c,o,o,o], 2, [], fun fl n _ => (Cond.ofField (fl c)).map fun x => .jrCcE8 x n⟩,
  -- 42: LD r,r' (R131)
  ⟨[o,i,d,d,d,s,s,s], 1, [(d, 6), (s, 6)], fun fl _ _ => (Reg8.ofField (fl d)).bind fun x => (Reg8.ofField (fl s)).map fun y => .ldRR x y⟩,
  -- 43: LD r,(HL) (R132)
  ⟨[o,i,d,d,d,i,i,o], 1, [(d, 6)], fun fl _ _ => (Reg8.ofField (fl d)).map .ldRHl⟩,
  -- 44: LD (HL),r (R133)
  ⟨[o,i,i,i,o,s,s,s], 1, [(s, 6)], fun fl _ _ => (Reg8.ofField (fl s)).map .ldHlR⟩,
  -- 45: HALT (R310)
  ⟨[o,i,i,i,o,i,i,o], 1, [], fun _ _ _ => some .halt⟩]

/-- Rows 46 to 61: the accumulator operations on registers and (HL) (R96). -/
def aluRules : List DispatchRule := [
  -- 46: ADD A,r (R172)
  ⟨[i,o,o,o,o,r,r,r], 1, [(r, 6)], fun fl _ _ => (Reg8.ofField (fl r)).map .addAR⟩,
  -- 47: ADD A,(HL) (R173)
  ⟨[i,o,o,o,o,i,i,o], 1, [], fun _ _ _ => some .addAHl⟩,
  -- 48: ADC A,r (R175)
  ⟨[i,o,o,o,i,r,r,r], 1, [(r, 6)], fun fl _ _ => (Reg8.ofField (fl r)).map .adcAR⟩,
  -- 49: ADC A,(HL) (R176)
  ⟨[i,o,o,o,i,i,i,o], 1, [], fun _ _ _ => some .adcAHl⟩,
  -- 50: SUB r (R178)
  ⟨[i,o,o,i,o,r,r,r], 1, [(r, 6)], fun fl _ _ => (Reg8.ofField (fl r)).map .subR⟩,
  -- 51: SUB (HL) (R179)
  ⟨[i,o,o,i,o,i,i,o], 1, [], fun _ _ _ => some .subHl⟩,
  -- 52: SBC A,r (R181)
  ⟨[i,o,o,i,i,r,r,r], 1, [(r, 6)], fun fl _ _ => (Reg8.ofField (fl r)).map .sbcAR⟩,
  -- 53: SBC A,(HL) (R182)
  ⟨[i,o,o,i,i,i,i,o], 1, [], fun _ _ _ => some .sbcAHl⟩,
  -- 54: AND r (R184)
  ⟨[i,o,i,o,o,r,r,r], 1, [(r, 6)], fun fl _ _ => (Reg8.ofField (fl r)).map .andR⟩,
  -- 55: AND (HL) (R185)
  ⟨[i,o,i,o,o,i,i,o], 1, [], fun _ _ _ => some .andHl⟩,
  -- 56: XOR r (R187)
  ⟨[i,o,i,o,i,r,r,r], 1, [(r, 6)], fun fl _ _ => (Reg8.ofField (fl r)).map .xorR⟩,
  -- 57: XOR (HL) (R188)
  ⟨[i,o,i,o,i,i,i,o], 1, [], fun _ _ _ => some .xorHl⟩,
  -- 58: OR r (R190)
  ⟨[i,o,i,i,o,r,r,r], 1, [(r, 6)], fun fl _ _ => (Reg8.ofField (fl r)).map .orR⟩,
  -- 59: OR (HL) (R191)
  ⟨[i,o,i,i,o,i,i,o], 1, [], fun _ _ _ => some .orHl⟩,
  -- 60: CP r (R193)
  ⟨[i,o,i,i,i,r,r,r], 1, [(r, 6)], fun fl _ _ => (Reg8.ofField (fl r)).map .cpR⟩,
  -- 61: CP (HL) (R194)
  ⟨[i,o,i,i,i,i,i,o], 1, [], fun _ _ _ => some .cpHl⟩]

/-- Rows 62 to 69: the accumulator operations on an immediate (R96). -/
def aluImmRules : List DispatchRule := [
  -- 62: ADD A,d8 (R174)
  ⟨[i,i,o,o,o,i,i,o], 2, [], fun _ n _ => some (.addAD8 n)⟩,
  -- 63: ADC A,d8 (R177)
  ⟨[i,i,o,o,i,i,i,o], 2, [], fun _ n _ => some (.adcAD8 n)⟩,
  -- 64: SUB d8 (R180)
  ⟨[i,i,o,i,o,i,i,o], 2, [], fun _ n _ => some (.subD8 n)⟩,
  -- 65: SBC A,d8 (R183)
  ⟨[i,i,o,i,i,i,i,o], 2, [], fun _ n _ => some (.sbcAD8 n)⟩,
  -- 66: AND d8 (R186)
  ⟨[i,i,i,o,o,i,i,o], 2, [], fun _ n _ => some (.andD8 n)⟩,
  -- 67: XOR d8 (R189)
  ⟨[i,i,i,o,i,i,i,o], 2, [], fun _ n _ => some (.xorD8 n)⟩,
  -- 68: OR d8 (R192)
  ⟨[i,i,i,i,o,i,i,o], 2, [], fun _ n _ => some (.orD8 n)⟩,
  -- 69: CP d8 (R195)
  ⟨[i,i,i,i,i,i,i,o], 2, [], fun _ n _ => some (.cpD8 n)⟩]

/-- Rows 70 to 81: control transfer, the stack and the prefix (R96). -/
def controlRules : List DispatchRule := [
  -- 70: RET cc (R279)
  ⟨[i,i,o,c,c,o,o,o], 1, [], fun fl _ _ => (Cond.ofField (fl c)).map .retCc⟩,
  -- 71: POP rr (R303)
  ⟨[i,i,r,r,o,o,o,i], 1, [(r, 3)], fun fl _ _ => (PairStk.ofField (fl r)).map .popRr⟩,
  -- 72: POP AF (R314)
  ⟨[i,i,i,i,o,o,o,i], 1, [], fun _ _ _ => some .popAf⟩,
  -- 73: JP cc,a16 (R272)
  ⟨[i,i,o,c,c,o,i,o], 3, [], fun fl l h => (Cond.ofField (fl c)).map fun x => .jpCcA16 x (mkWord h l)⟩,
  -- 74: JP a16 (R271)
  ⟨[i,i,o,o,o,o,i,i], 3, [], fun _ l h => some (.jpA16 (mkWord h l))⟩,
  -- 75: CALL cc,a16 (R277)
  ⟨[i,i,o,c,c,i,o,o], 3, [], fun fl l h => (Cond.ofField (fl c)).map fun x => .callCcA16 x (mkWord h l)⟩,
  -- 76: PUSH rr (R302)
  ⟨[i,i,r,r,o,i,o,i], 1, [], fun fl _ _ => (PairStk.ofField (fl r)).map .pushRr⟩,
  -- 77: RST t (R281)
  ⟨[i,i,t,t,t,i,i,i], 1, [], fun fl _ _ => some (.rst (BitVec.ofNat 3 (fl t)))⟩,
  -- 78: RET (R278)
  ⟨[i,i,o,o,i,o,o,i], 1, [], fun _ _ _ => some .ret⟩,
  -- 79: RETI (R280)
  ⟨[i,i,o,i,i,o,o,i], 1, [], fun _ _ _ => some .reti⟩,
  -- 80: PREFIX CB (R313)
  ⟨[i,i,o,o,i,o,i,i], 2, [], fun _ n _ => some (.prefixCb n)⟩,
  -- 81: CALL a16 (R276)
  ⟨[i,i,o,o,i,i,o,i], 3, [], fun _ l h => some (.callA16 (mkWord h l))⟩]

/-- Rows 82 to 93: high-page and absolute loads, SP arithmetic, JP HL, DI, EI (R96). -/
def highRules : List DispatchRule := [
  -- 82: LDH (a8),A (R147)
  ⟨[i,i,i,o,o,o,o,o], 2, [], fun _ n _ => some (.ldhA8A n)⟩,
  -- 83: LDH A,(a8) (R146)
  ⟨[i,i,i,i,o,o,o,o], 2, [], fun _ n _ => some (.ldhAA8 n)⟩,
  -- 84: LD (C),A (R149)
  ⟨[i,i,i,o,o,o,i,o], 1, [], fun _ _ _ => some .ldCA⟩,
  -- 85: LD A,(C) (R148)
  ⟨[i,i,i,i,o,o,i,o], 1, [], fun _ _ _ => some .ldAC⟩,
  -- 86: ADD SP,e8 (R307)
  ⟨[i,i,i,o,i,o,o,o], 2, [], fun _ n _ => some (.addSpE8 n)⟩,
  -- 87: LD HL,SP+e8 (R153)
  ⟨[i,i,i,i,i,o,o,o], 2, [], fun _ n _ => some (.ldHlSpE8 n)⟩,
  -- 88: JP HL (R273)
  ⟨[i,i,i,o,i,o,o,i], 1, [], fun _ _ _ => some .jpHl⟩,
  -- 89: LD SP,HL (R152)
  ⟨[i,i,i,i,i,o,o,i], 1, [], fun _ _ _ => some .ldSpHl⟩,
  -- 90: LD (a16),A (R145)
  ⟨[i,i,i,o,i,o,i,o], 3, [], fun _ l h => some (.ldA16A (mkWord h l))⟩,
  -- 91: LD A,(a16) (R144)
  ⟨[i,i,i,i,i,o,i,o], 3, [], fun _ l h => some (.ldAA16 (mkWord h l))⟩,
  -- 92: DI (R308)
  ⟨[i,i,i,i,o,o,i,i], 1, [], fun _ _ _ => some .di⟩,
  -- 93: EI (R309)
  ⟨[i,i,i,i,i,o,i,i], 1, [], fun _ _ _ => some .ei⟩]

/-- Rows 94 to 109 of the table: the rotate, shift and swap group of the secondary table (R97). -/
def shiftRules : List DispatchRule := [
  -- 94: RLC r (R231)
  ⟨[o,o,o,o,o,r,r,r], 2, [(r, 6)], fun fl _ _ => (Reg8.ofField (fl r)).map .rlcR⟩,
  -- 95: RLC (HL) (R232)
  ⟨[o,o,o,o,o,i,i,o], 2, [], fun _ _ _ => some .rlcHl⟩,
  -- 96: RRC r (R233)
  ⟨[o,o,o,o,i,r,r,r], 2, [(r, 6)], fun fl _ _ => (Reg8.ofField (fl r)).map .rrcR⟩,
  -- 97: RRC (HL) (R234)
  ⟨[o,o,o,o,i,i,i,o], 2, [], fun _ _ _ => some .rrcHl⟩,
  -- 98: RL r (R235)
  ⟨[o,o,o,i,o,r,r,r], 2, [(r, 6)], fun fl _ _ => (Reg8.ofField (fl r)).map .rlR⟩,
  -- 99: RL (HL) (R236)
  ⟨[o,o,o,i,o,i,i,o], 2, [], fun _ _ _ => some .rlHl⟩,
  -- 100: RR r (R237)
  ⟨[o,o,o,i,i,r,r,r], 2, [(r, 6)], fun fl _ _ => (Reg8.ofField (fl r)).map .rrR⟩,
  -- 101: RR (HL) (R238)
  ⟨[o,o,o,i,i,i,i,o], 2, [], fun _ _ _ => some .rrHl⟩,
  -- 102: SLA r (R239)
  ⟨[o,o,i,o,o,r,r,r], 2, [(r, 6)], fun fl _ _ => (Reg8.ofField (fl r)).map .slaR⟩,
  -- 103: SLA (HL) (R240)
  ⟨[o,o,i,o,o,i,i,o], 2, [], fun _ _ _ => some .slaHl⟩,
  -- 104: SRA r (R241)
  ⟨[o,o,i,o,i,r,r,r], 2, [(r, 6)], fun fl _ _ => (Reg8.ofField (fl r)).map .sraR⟩,
  -- 105: SRA (HL) (R242)
  ⟨[o,o,i,o,i,i,i,o], 2, [], fun _ _ _ => some .sraHl⟩,
  -- 106: SWAP r (R243)
  ⟨[o,o,i,i,o,r,r,r], 2, [(r, 6)], fun fl _ _ => (Reg8.ofField (fl r)).map .swapR⟩,
  -- 107: SWAP (HL) (R244)
  ⟨[o,o,i,i,o,i,i,o], 2, [], fun _ _ _ => some .swapHl⟩,
  -- 108: SRL r (R245)
  ⟨[o,o,i,i,i,r,r,r], 2, [(r, 6)], fun fl _ _ => (Reg8.ofField (fl r)).map .srlR⟩,
  -- 109: SRL (HL) (R246)
  ⟨[o,o,i,i,i,i,i,o], 2, [], fun _ _ _ => some .srlHl⟩]

/-- Rows 110 to 115: the bit test, reset and set groups of the secondary table (R97). -/
def bitRules : List DispatchRule := [
  -- 110: BIT b,r (R247)
  ⟨[o,i,b,b,b,r,r,r], 2, [(r, 6)], fun fl _ _ => (Reg8.ofField (fl r)).map fun x => .bitBR (BitVec.ofNat 3 (fl b)) x⟩,
  -- 111: BIT b,(HL) (R248)
  ⟨[o,i,b,b,b,i,i,o], 2, [], fun fl _ _ => some (.bitBHl (BitVec.ofNat 3 (fl b)))⟩,
  -- 112: RES b,r (R249)
  ⟨[i,o,b,b,b,r,r,r], 2, [(r, 6)], fun fl _ _ => (Reg8.ofField (fl r)).map fun x => .resBR (BitVec.ofNat 3 (fl b)) x⟩,
  -- 113: RES b,(HL) (R250)
  ⟨[i,o,b,b,b,i,i,o], 2, [], fun fl _ _ => some (.resBHl (BitVec.ofNat 3 (fl b)))⟩,
  -- 114: SET b,r (R251)
  ⟨[i,i,b,b,b,r,r,r], 2, [(r, 6)], fun fl _ _ => (Reg8.ofField (fl r)).map fun x => .setBR (BitVec.ofNat 3 (fl b)) x⟩,
  -- 115: SET b,(HL) (R252)
  ⟨[i,i,b,b,b,i,i,o], 2, [], fun fl _ _ => some (.setBHl (BitVec.ofNat 3 (fl b)))⟩]

/-- The primary rule list in declaration order (R96). -/
def primaryRules : List DispatchRule :=
  undefRules ++ loadRulesLow ++ byteRules ++ moveRules ++ aluRules ++ aluImmRules ++ controlRules ++ highRules

/-- The secondary rule list in declaration order (R97); its patterns are those of the second instruction byte. -/
def secondaryRules : List DispatchRule := shiftRules ++ bitRules

end Tables

/-! ## The decoder -/

/-- The primary table's entry for opcode `op`, given the two bytes after it (R96). For 0xCB it is `PREFIX CB`. -/
def primaryEntry (op b1 b2 : Byte) : Option Instr :=
  (slot primaryRules op).bind (fun q => q.gen (q.fields op) b1 b2)

/-- The secondary table's entry for `op2` (R97). -/
def secondaryEntry (op2 : Byte) : Option Instr :=
  (slot secondaryRules op2).bind (fun q => q.gen (q.fields op2) 0 0)

/-- The length of an instruction, "a function of the first byte alone" (R90, R91). -/
def lengthOf (op : Byte) : Nat :=
  match slot primaryRules op with
  | some q => q.length
  | none => 1

/-- The instruction that a primary-table entry performs: "the pair (0xCB, op2) is one instruction" (R100). -/
def resolvePrefix : Instr → Option Instr
  | .prefixCb op2 => secondaryEntry op2
  | i => some i

/-- Why a byte list is not an instruction. -/
inductive DecodeReject
  /-- No byte at all. -/
  | noBytes
  /-- Fewer bytes than the first byte's length (R91). -/
  | truncated
  /-- An empty table slot; rule R98 says there is none. -/
  | unmapped (op : Byte)
  deriving DecidableEq, Repr

/-- Decode the instruction at the front of a byte list (R91, R96, R97, R103): the instruction and the bytes after it. -/
def decode : List Byte → Except DecodeReject (Instr × List Byte)
  | [] => .error .noBytes
  | op :: rest =>
    if rest.length + 1 < lengthOf op then .error .truncated
    else
      match (primaryEntry op (rest.getD 0 0) (rest.getD 1 0)).bind resolvePrefix with
      | some i => .ok (i, rest.drop (lengthOf op - 1))
      | none => .error (.unmapped op)

/-! ## The encoder -/

/-- The bytes of an instruction in memory order, from the `encoding` column of the opcode table (R90, R93, R96, R97).
The pad byte of STOP, which is never read, is encoded as 0x00 (R102). -/
def encode : Instr → List Byte
  | .undefD3 => [0xD3]
  | .undefDB => [0xDB]
  | .undefDD => [0xDD]
  | .undefE3 => [0xE3]
  | .undefE4 => [0xE4]
  | .undefEB => [0xEB]
  | .undefEC => [0xEC]
  | .undefED => [0xED]
  | .undefF4 => [0xF4]
  | .undefFC => [0xFC]
  | .undefFD => [0xFD]
  | .nop => [0x00]
  | .ldRrD16 p v => [0x01 ||| (p.field <<< 4), loByte v, hiByte v]
  | .ldBcA => [0x02]
  | .ldDeA => [0x12]
  | .ldHliA => [0x22]
  | .ldHldA => [0x32]
  | .ldABc => [0x0A]
  | .ldADe => [0x1A]
  | .ldAHli => [0x2A]
  | .ldAHld => [0x3A]
  | .incRr p => [0x03 ||| (p.field <<< 4)]
  | .decRr p => [0x0B ||| (p.field <<< 4)]
  | .addHlRr p => [0x09 ||| (p.field <<< 4)]
  | .incR r => [0x04 ||| (r.field <<< 3)]
  | .incHl => [0x34]
  | .decR r => [0x05 ||| (r.field <<< 3)]
  | .decHl => [0x35]
  | .ldRD8 r n => [0x06 ||| (r.field <<< 3), n]
  | .ldHlD8 n => [0x36, n]
  | .rlca => [0x07]
  | .rrca => [0x0F]
  | .rla => [0x17]
  | .rra => [0x1F]
  | .daa => [0x27]
  | .cpl => [0x2F]
  | .scf => [0x37]
  | .ccf => [0x3F]
  | .ldA16Sp a => [0x08, loByte a, hiByte a]
  | .stop => [0x10, 0x00]
  | .jrE8 n => [0x18, n]
  | .jrCcE8 cc e => [0x20 ||| (cc.field <<< 3), e]
  | .ldRR dst src => [0x40 ||| (dst.field <<< 3) ||| src.field]
  | .ldRHl dst => [0x46 ||| (dst.field <<< 3)]
  | .ldHlR src => [0x70 ||| src.field]
  | .halt => [0x76]
  | .addAR r => [0x80 ||| r.field]
  | .addAHl => [0x86]
  | .adcAR r => [0x88 ||| r.field]
  | .adcAHl => [0x8E]
  | .subR r => [0x90 ||| r.field]
  | .subHl => [0x96]
  | .sbcAR r => [0x98 ||| r.field]
  | .sbcAHl => [0x9E]
  | .andR r => [0xA0 ||| r.field]
  | .andHl => [0xA6]
  | .xorR r => [0xA8 ||| r.field]
  | .xorHl => [0xAE]
  | .orR r => [0xB0 ||| r.field]
  | .orHl => [0xB6]
  | .cpR r => [0xB8 ||| r.field]
  | .cpHl => [0xBE]
  | .addAD8 n => [0xC6, n]
  | .adcAD8 n => [0xCE, n]
  | .subD8 n => [0xD6, n]
  | .sbcAD8 n => [0xDE, n]
  | .andD8 n => [0xE6, n]
  | .xorD8 n => [0xEE, n]
  | .orD8 n => [0xF6, n]
  | .cpD8 n => [0xFE, n]
  | .retCc cc => [0xC0 ||| (cc.field <<< 3)]
  | .popRr p => [0xC1 ||| (p.field <<< 4)]
  | .popAf => [0xF1]
  | .jpCcA16 cc a => [0xC2 ||| (cc.field <<< 3), loByte a, hiByte a]
  | .jpA16 a => [0xC3, loByte a, hiByte a]
  | .callCcA16 cc a => [0xC4 ||| (cc.field <<< 3), loByte a, hiByte a]
  | .pushRr p => [0xC5 ||| (p.field <<< 4)]
  | .rst t => [0xC7 ||| (t.setWidth 8 <<< 3)]
  | .ret => [0xC9]
  | .reti => [0xD9]
  | .prefixCb op2 => [prefixByte, op2]
  | .callA16 a => [0xCD, loByte a, hiByte a]
  | .ldhA8A n => [0xE0, n]
  | .ldhAA8 n => [0xF0, n]
  | .ldCA => [0xE2]
  | .ldAC => [0xF2]
  | .addSpE8 n => [0xE8, n]
  | .ldHlSpE8 n => [0xF8, n]
  | .jpHl => [0xE9]
  | .ldSpHl => [0xF9]
  | .ldA16A a => [0xEA, loByte a, hiByte a]
  | .ldAA16 a => [0xFA, loByte a, hiByte a]
  | .di => [0xF3]
  | .ei => [0xFB]
  | .rlcR r => [prefixByte, 0x00 ||| r.field]
  | .rlcHl => [prefixByte, 0x06]
  | .rrcR r => [prefixByte, 0x08 ||| r.field]
  | .rrcHl => [prefixByte, 0x0E]
  | .rlR r => [prefixByte, 0x10 ||| r.field]
  | .rlHl => [prefixByte, 0x16]
  | .rrR r => [prefixByte, 0x18 ||| r.field]
  | .rrHl => [prefixByte, 0x1E]
  | .slaR r => [prefixByte, 0x20 ||| r.field]
  | .slaHl => [prefixByte, 0x26]
  | .sraR r => [prefixByte, 0x28 ||| r.field]
  | .sraHl => [prefixByte, 0x2E]
  | .swapR r => [prefixByte, 0x30 ||| r.field]
  | .swapHl => [prefixByte, 0x36]
  | .srlR r => [prefixByte, 0x38 ||| r.field]
  | .srlHl => [prefixByte, 0x3E]
  | .bitBR n r => [prefixByte, 0x40 ||| (n.setWidth 8 <<< 3) ||| r.field]
  | .bitBHl n => [prefixByte, 0x46 ||| (n.setWidth 8 <<< 3)]
  | .resBR n r => [prefixByte, 0x80 ||| (n.setWidth 8 <<< 3) ||| r.field]
  | .resBHl n => [prefixByte, 0x86 ||| (n.setWidth 8 <<< 3)]
  | .setBR n r => [prefixByte, 0xC0 ||| (n.setWidth 8 <<< 3) ||| r.field]
  | .setBHl n => [prefixByte, 0xC6 ||| (n.setWidth 8 <<< 3)]

/-! ## The words of spec/opcode_table.json -/

/-- The bytes of a table word, first byte first, with zeros after it. A word of up to eight bits is a primary row's opcode. A
16-bit word whose upper byte is 0xCB is numbered as the table numbers the rows of the secondary table (R103: 256*byte0 +
byte1). Any other word has its first byte in bits 7 to 0. -/
def tableBytes (nbits w : Nat) : Byte × Byte × Byte :=
  if nbits ≤ 8 then (BitVec.ofNat 8 w, 0, 0)
  else if nbits ≤ 16 ∧ w / 256 % 256 = 0xCB then (prefixByte, BitVec.ofNat 8 w, 0)
  else (BitVec.ofNat 8 w, BitVec.ofNat 8 (w / 256), BitVec.ofNat 8 (w / 65536))

/-- The instruction the decoder reads from a table word. A word of up to eight bits names an entry of the primary table, and
is answered with that entry: for 0xCB it is PREFIX CB, whose effect is its secondary instruction's (R103, R313). -/
def decodeTableWord (nbits w : Nat) : Option Instr :=
  let x := tableBytes nbits w
  if nbits ≤ 8 then primaryEntry x.1 x.2.1 x.2.2
  else (primaryEntry x.1 x.2.1 x.2.2).bind resolvePrefix

end Sys2Proof
end

