-- ==== Sys2Proof/Machine/Prefixed.lean ====
section
/-! DEFINITION. The 0xCB-prefixed instructions, one meaning each (42_cb_prefixed.md, rules R230 to R252). `begin2` is the
`CBFetch` of rule R230. -/

namespace Sys2Proof.Machine

/-! ## Rotates and shifts -/

/-- `RLC r` (R231). -/
def execRlcR (r : Reg8) (s : State) : Host.Outcome State Fault Refusal :=
  .next (s.begin2.shiftReg (fun x _ => rlc8 x) r)

/-- `RLC (HL)` (R232). -/
def execRlcHl (s : State) : Host.Outcome State Fault Refusal :=
  .next (s.begin2.shiftHl (fun x _ => rlc8 x))

/-- `RRC r` (R233). -/
def execRrcR (r : Reg8) (s : State) : Host.Outcome State Fault Refusal :=
  .next (s.begin2.shiftReg (fun x _ => rrc8 x) r)

/-- `RRC (HL)` (R234). -/
def execRrcHl (s : State) : Host.Outcome State Fault Refusal :=
  .next (s.begin2.shiftHl (fun x _ => rrc8 x))

/-- `RL r` (R235). -/
def execRlR (r : Reg8) (s : State) : Host.Outcome State Fault Refusal :=
  .next (s.begin2.shiftReg rl8 r)

/-- `RL (HL)` (R236). -/
def execRlHl (s : State) : Host.Outcome State Fault Refusal :=
  .next (s.begin2.shiftHl rl8)

/-- `RR r` (R237). -/
def execRrR (r : Reg8) (s : State) : Host.Outcome State Fault Refusal :=
  .next (s.begin2.shiftReg rr8 r)

/-- `RR (HL)` (R238). -/
def execRrHl (s : State) : Host.Outcome State Fault Refusal :=
  .next (s.begin2.shiftHl rr8)

/-- `SLA r` (R239). -/
def execSlaR (r : Reg8) (s : State) : Host.Outcome State Fault Refusal :=
  .next (s.begin2.shiftReg (fun x _ => sla8 x) r)

/-- `SLA (HL)` (R240). -/
def execSlaHl (s : State) : Host.Outcome State Fault Refusal :=
  .next (s.begin2.shiftHl (fun x _ => sla8 x))

/-- `SRA r` (R241). -/
def execSraR (r : Reg8) (s : State) : Host.Outcome State Fault Refusal :=
  .next (s.begin2.shiftReg (fun x _ => sra8 x) r)

/-- `SRA (HL)` (R242). -/
def execSraHl (s : State) : Host.Outcome State Fault Refusal :=
  .next (s.begin2.shiftHl (fun x _ => sra8 x))

/-- `SWAP r` (R243). -/
def execSwapR (r : Reg8) (s : State) : Host.Outcome State Fault Refusal :=
  .next (s.begin2.shiftReg (fun x _ => swap8 x) r)

/-- `SWAP (HL)` (R244). -/
def execSwapHl (s : State) : Host.Outcome State Fault Refusal :=
  .next (s.begin2.shiftHl (fun x _ => swap8 x))

/-- `SRL r` (R245). -/
def execSrlR (r : Reg8) (s : State) : Host.Outcome State Fault Refusal :=
  .next (s.begin2.shiftReg (fun x _ => srl8 x) r)

/-- `SRL (HL)` (R246). -/
def execSrlHl (s : State) : Host.Outcome State Fault Refusal :=
  .next (s.begin2.shiftHl (fun x _ => srl8 x))

/-! ## Bit test, reset, set -/

/-- `BIT b,r` (R247): the register is not written. -/
def execBitBR (n : BitVec 3) (r : Reg8) (s : State) : Host.Outcome State Fault Refusal :=
  let s := s.begin2
  .next ((s.setF (bitFlags (s.reg r) n s.f)).advance 2)

/-- `BIT b,(HL)` (R248): memory is read and not written. -/
def execBitBHl (n : BitVec 3) (s : State) : Host.Outcome State Fault Refusal :=
  .next (s.begin2.withRead s.begin2.hl fun x s => (s.setF (bitFlags x n s.f)).advance 2)

/-- `RES b,r` (R249). -/
def execResBR (n : BitVec 3) (r : Reg8) (s : State) : Host.Outcome State Fault Refusal :=
  let s := s.begin2
  .next ((s.setReg r (s.reg r &&& ~~~bitMask n.toNat)).advance 2)

/-- `RES b,(HL)` (R250): the byte is written back even when it is unchanged (R68). -/
def execResBHl (n : BitVec 3) (s : State) : Host.Outcome State Fault Refusal :=
  .next (s.begin2.withRead s.begin2.hl fun x s => (s.write8 s.hl (x &&& ~~~bitMask n.toNat)).advance 2)

/-- `SET b,r` (R251). -/
def execSetBR (n : BitVec 3) (r : Reg8) (s : State) : Host.Outcome State Fault Refusal :=
  let s := s.begin2
  .next ((s.setReg r (s.reg r ||| bitMask n.toNat)).advance 2)

/-- `SET b,(HL)` (R252): the byte is written back even when it is unchanged (R68). -/
def execSetBHl (n : BitVec 3) (s : State) : Host.Outcome State Fault Refusal :=
  .next (s.begin2.withRead s.begin2.hl fun x s => (s.write8 s.hl (x ||| bitMask n.toNat)).advance 2)

end Sys2Proof.Machine
end

