-- ==== Sys2Proof/Machine/Prefix.lean ====
section
/-! DEFINITION. The primary-table entry of the prefix byte 0xCB (rule R313). -/

namespace Sys2Proof.Machine

/-- Perform one entry of the secondary table (R97, R313); an entry of the primary table is not one. -/
def secondaryMeaning (i : Instr) (s : State) : Option (Host.Outcome State Fault Refusal) :=
  match i with
  | .rlcR r => some (execRlcR r s)
  | .rlcHl => some (execRlcHl s)
  | .rrcR r => some (execRrcR r s)
  | .rrcHl => some (execRrcHl s)
  | .rlR r => some (execRlR r s)
  | .rlHl => some (execRlHl s)
  | .rrR r => some (execRrR r s)
  | .rrHl => some (execRrHl s)
  | .slaR r => some (execSlaR r s)
  | .slaHl => some (execSlaHl s)
  | .sraR r => some (execSraR r s)
  | .sraHl => some (execSraHl s)
  | .swapR r => some (execSwapR r s)
  | .swapHl => some (execSwapHl s)
  | .srlR r => some (execSrlR r s)
  | .srlHl => some (execSrlHl s)
  | .bitBR n r => some (execBitBR n r s)
  | .bitBHl n => some (execBitBHl n s)
  | .resBR n r => some (execResBR n r s)
  | .resBHl n => some (execResBHl n s)
  | .setBR n r => some (execSetBR n r s)
  | .setBHl n => some (execSetBHl n s)
  | .undefD3 | .undefDB | .undefDD | .undefE3 | .undefE4 | .undefEB | .undefEC | .undefED | .undefF4 | .undefFC
  | .undefFD | .nop | .ldRrD16 _ _ | .ldBcA | .ldDeA | .ldHliA | .ldHldA | .ldABc | .ldADe | .ldAHli | .ldAHld
  | .incRr _ | .decRr _ | .addHlRr _ | .incR _ | .incHl | .decR _ | .decHl | .ldRD8 _ _ | .ldHlD8 _ | .rlca | .rrca
  | .rla | .rra | .daa | .cpl | .scf | .ccf | .ldA16Sp _ | .stop | .jrE8 _ | .jrCcE8 _ _ | .ldRR _ _ | .ldRHl _
  | .ldHlR _ | .halt | .addAR _ | .addAHl | .adcAR _ | .adcAHl | .subR _ | .subHl | .sbcAR _ | .sbcAHl | .andR _
  | .andHl | .xorR _ | .xorHl | .orR _ | .orHl | .cpR _ | .cpHl | .addAD8 _ | .adcAD8 _ | .subD8 _ | .sbcAD8 _
  | .andD8 _ | .xorD8 _ | .orD8 _ | .cpD8 _ | .retCc _ | .popRr _ | .popAf | .jpCcA16 _ _ | .jpA16 _
  | .callCcA16 _ _ | .pushRr _ | .rst _ | .ret | .reti | .prefixCb _ | .callA16 _ | .ldhA8A _ | .ldhAA8 _ | .ldCA
  | .ldAC | .addSpE8 _ | .ldHlSpE8 _ | .jpHl | .ldSpHl | .ldA16A _ | .ldAA16 _ | .di | .ei => none

/-- `PREFIX CB` (R313): read the secondary opcode and perform the secondary-table entry for it. The reads and their machine
cycles are the `CBFetch` that opens every secondary meaning (R230). The last arm is never taken: all 256 entries of the
secondary table are defined (R98). -/
def execPrefixCb (op2 : Byte) (s : State) : Host.Outcome State Fault Refusal :=
  match (secondaryEntry op2).bind (fun i => secondaryMeaning i s) with
  | some r => r
  | none => .refused (.unmappedOpcode op2)

end Sys2Proof.Machine
end

