-- ==== Sys2Proof/Machine/Dispatch.lean ====
section
/-! DEFINITION. The instruction semantics: one arm per constructor of `Instr`, in the order of spec/opcode_table.json. -/

namespace Sys2Proof.Machine

/-- What an instruction does, from the machine cycle of its opcode read on (R352, R9). -/
def exec (i : Instr) (s : State) : Host.Outcome State Fault Refusal :=
  match i with
  | .undefD3 => Sys2Proof.Machine.execUndefD3 s
  | .undefDB => Sys2Proof.Machine.execUndefDB s
  | .undefDD => Sys2Proof.Machine.execUndefDD s
  | .undefE3 => Sys2Proof.Machine.execUndefE3 s
  | .undefE4 => Sys2Proof.Machine.execUndefE4 s
  | .undefEB => Sys2Proof.Machine.execUndefEB s
  | .undefEC => Sys2Proof.Machine.execUndefEC s
  | .undefED => Sys2Proof.Machine.execUndefED s
  | .undefF4 => Sys2Proof.Machine.execUndefF4 s
  | .undefFC => Sys2Proof.Machine.execUndefFC s
  | .undefFD => Sys2Proof.Machine.execUndefFD s
  | .nop => Sys2Proof.Machine.execNop s
  | .ldRrD16 p v => Sys2Proof.Machine.execLdRrD16 p v s
  | .ldBcA => Sys2Proof.Machine.execLdBcA s
  | .ldDeA => Sys2Proof.Machine.execLdDeA s
  | .ldHliA => Sys2Proof.Machine.execLdHliA s
  | .ldHldA => Sys2Proof.Machine.execLdHldA s
  | .ldABc => Sys2Proof.Machine.execLdABc s
  | .ldADe => Sys2Proof.Machine.execLdADe s
  | .ldAHli => Sys2Proof.Machine.execLdAHli s
  | .ldAHld => Sys2Proof.Machine.execLdAHld s
  | .incRr p => Sys2Proof.Machine.execIncRr p s
  | .decRr p => Sys2Proof.Machine.execDecRr p s
  | .addHlRr p => Sys2Proof.Machine.execAddHlRr p s
  | .incR r => Sys2Proof.Machine.execIncR r s
  | .incHl => Sys2Proof.Machine.execIncHl s
  | .decR r => Sys2Proof.Machine.execDecR r s
  | .decHl => Sys2Proof.Machine.execDecHl s
  | .ldRD8 r n => Sys2Proof.Machine.execLdRD8 r n s
  | .ldHlD8 n => Sys2Proof.Machine.execLdHlD8 n s
  | .rlca => Sys2Proof.Machine.execRlca s
  | .rrca => Sys2Proof.Machine.execRrca s
  | .rla => Sys2Proof.Machine.execRla s
  | .rra => Sys2Proof.Machine.execRra s
  | .daa => Sys2Proof.Machine.execDaa s
  | .cpl => Sys2Proof.Machine.execCpl s
  | .scf => Sys2Proof.Machine.execScf s
  | .ccf => Sys2Proof.Machine.execCcf s
  | .ldA16Sp a => Sys2Proof.Machine.execLdA16Sp a s
  | .stop => Sys2Proof.Machine.execStop s
  | .jrE8 e => Sys2Proof.Machine.execJrE8 e s
  | .jrCcE8 cc e => Sys2Proof.Machine.execJrCcE8 cc e s
  | .ldRR dst src => Sys2Proof.Machine.execLdRR dst src s
  | .ldRHl dst => Sys2Proof.Machine.execLdRHl dst s
  | .ldHlR src => Sys2Proof.Machine.execLdHlR src s
  | .halt => Sys2Proof.Machine.execHalt s
  | .addAR r => Sys2Proof.Machine.execAddAR r s
  | .addAHl => Sys2Proof.Machine.execAddAHl s
  | .adcAR r => Sys2Proof.Machine.execAdcAR r s
  | .adcAHl => Sys2Proof.Machine.execAdcAHl s
  | .subR r => Sys2Proof.Machine.execSubR r s
  | .subHl => Sys2Proof.Machine.execSubHl s
  | .sbcAR r => Sys2Proof.Machine.execSbcAR r s
  | .sbcAHl => Sys2Proof.Machine.execSbcAHl s
  | .andR r => Sys2Proof.Machine.execAndR r s
  | .andHl => Sys2Proof.Machine.execAndHl s
  | .xorR r => Sys2Proof.Machine.execXorR r s
  | .xorHl => Sys2Proof.Machine.execXorHl s
  | .orR r => Sys2Proof.Machine.execOrR r s
  | .orHl => Sys2Proof.Machine.execOrHl s
  | .cpR r => Sys2Proof.Machine.execCpR r s
  | .cpHl => Sys2Proof.Machine.execCpHl s
  | .addAD8 n => Sys2Proof.Machine.execAddAD8 n s
  | .adcAD8 n => Sys2Proof.Machine.execAdcAD8 n s
  | .subD8 n => Sys2Proof.Machine.execSubD8 n s
  | .sbcAD8 n => Sys2Proof.Machine.execSbcAD8 n s
  | .andD8 n => Sys2Proof.Machine.execAndD8 n s
  | .xorD8 n => Sys2Proof.Machine.execXorD8 n s
  | .orD8 n => Sys2Proof.Machine.execOrD8 n s
  | .cpD8 n => Sys2Proof.Machine.execCpD8 n s
  | .retCc cc => Sys2Proof.Machine.execRetCc cc s
  | .popRr p => Sys2Proof.Machine.execPopRr p s
  | .popAf => Sys2Proof.Machine.execPopAf s
  | .jpCcA16 cc a => Sys2Proof.Machine.execJpCcA16 cc a s
  | .jpA16 a => Sys2Proof.Machine.execJpA16 a s
  | .callCcA16 cc a => Sys2Proof.Machine.execCallCcA16 cc a s
  | .pushRr p => Sys2Proof.Machine.execPushRr p s
  | .rst t => Sys2Proof.Machine.execRst t s
  | .ret => Sys2Proof.Machine.execRet s
  | .reti => Sys2Proof.Machine.execReti s
  | .prefixCb op2 => Sys2Proof.Machine.execPrefixCb op2 s
  | .callA16 a => Sys2Proof.Machine.execCallA16 a s
  | .ldhA8A n => Sys2Proof.Machine.execLdhA8A n s
  | .ldhAA8 n => Sys2Proof.Machine.execLdhAA8 n s
  | .ldCA => Sys2Proof.Machine.execLdCA s
  | .ldAC => Sys2Proof.Machine.execLdAC s
  | .addSpE8 e => Sys2Proof.Machine.execAddSpE8 e s
  | .ldHlSpE8 e => Sys2Proof.Machine.execLdHlSpE8 e s
  | .jpHl => Sys2Proof.Machine.execJpHl s
  | .ldSpHl => Sys2Proof.Machine.execLdSpHl s
  | .ldA16A a => Sys2Proof.Machine.execLdA16A a s
  | .ldAA16 a => Sys2Proof.Machine.execLdAA16 a s
  | .di => Sys2Proof.Machine.execDi s
  | .ei => Sys2Proof.Machine.execEi s
  | .rlcR r => Sys2Proof.Machine.execRlcR r s
  | .rlcHl => Sys2Proof.Machine.execRlcHl s
  | .rrcR r => Sys2Proof.Machine.execRrcR r s
  | .rrcHl => Sys2Proof.Machine.execRrcHl s
  | .rlR r => Sys2Proof.Machine.execRlR r s
  | .rlHl => Sys2Proof.Machine.execRlHl s
  | .rrR r => Sys2Proof.Machine.execRrR r s
  | .rrHl => Sys2Proof.Machine.execRrHl s
  | .slaR r => Sys2Proof.Machine.execSlaR r s
  | .slaHl => Sys2Proof.Machine.execSlaHl s
  | .sraR r => Sys2Proof.Machine.execSraR r s
  | .sraHl => Sys2Proof.Machine.execSraHl s
  | .swapR r => Sys2Proof.Machine.execSwapR r s
  | .swapHl => Sys2Proof.Machine.execSwapHl s
  | .srlR r => Sys2Proof.Machine.execSrlR r s
  | .srlHl => Sys2Proof.Machine.execSrlHl s
  | .bitBR n r => Sys2Proof.Machine.execBitBR n r s
  | .bitBHl n => Sys2Proof.Machine.execBitBHl n s
  | .resBR n r => Sys2Proof.Machine.execResBR n r s
  | .resBHl n => Sys2Proof.Machine.execResBHl n s
  | .setBR n r => Sys2Proof.Machine.execSetBR n r s
  | .setBHl n => Sys2Proof.Machine.execSetBHl n s

end Sys2Proof.Machine
end

