-- ==== Sys2Proof/Machine/StepParts.lean ====
section
/-! DEFINITION. The numbered parts of `Step()` (rule R343): the idle advance, the interrupt controller, the commit of the
enable latch, the breakpoint check, fetch and dispatch, and their order. -/

namespace Sys2Proof.Machine

/-- `Tick(IDLE_TICK)`: a step that does nothing else (R344, R349). -/
def State.idle (s : State) : State := s.tick s.config.idleTick

/-- "The least i with m[i] = 1" (R346), if any bit is set. -/
def lowestSource (m : Byte) : Option Nat := (List.range 8).find? (fun i => m.getLsbD i)

/-- The bits the controller considers, from the bytes at `IE_ADDR` and `IF_ADDR`: `ie & if_ & INT_MASK` (R345). -/
def State.pendingMask (s : State) : Byte := s.peek s.config.ieAddr &&& s.peek s.config.ifAddr &&& s.config.intMask

/-- The two bus reads of the poll, IE and then IF, which cost no clock (R345). -/
def State.pollReads (s : State) : State := ((s.busRead s.config.ieAddr).2.busRead s.config.ifAddr).2

/-- Part 2 of the step (R345 to R348), for a state that polls: wake, and dispatch if IME; true when the step ends here. -/
def State.poll (s : State) : Bool × State :=
  match lowestSource s.pendingMask with
  | none => (false, s.pollReads)
  | some i =>
    let t := s.pollReads.setRunning true
    if s.ime then (true, t.takeInterrupt i (s.peek s.config.ifAddr)) else (false, t)

/-- Part 2 of the step: the controller polls when IME is 1 or the core is halted (R345); true when the step ends here. -/
def State.controller (s : State) : Bool × State := if s.ime || !s.running then s.poll else (false, s)

/-- Part 4 of the step: `IME <- IME_next` (R350). -/
def State.commit (s : State) : State := s.setIme s.imeNext

/-- Part 5 of the step: the execution-breakpoint check (R351); true when the step ends in a debug trap. -/
def State.breakpoint (s : State) : Bool × State :=
  if s.config.debugPresent && s.execBp.contains s.pc then
    if s.trapResolved then (false, { s with trapResolved := false }) else (true, { s with trapped := true })
  else (false, s)

/-- The opcode read at PC, without a tick and without a change of PC (R352). -/
def State.opcodeRead (s : State) : State := (s.busRead s.pc).2

/-- The three bytes from PC on, each as the bus returns it in its own machine cycle: the opcode at once, the next byte after
the opcode's `Tick(4)`, the third after one more `Read8` (R72, R92, R352). An instruction is decoded from the bytes its own
rule reads, whatever the environment does in between. -/
def State.fetchedBytes (s : State) : Byte × Byte × Byte :=
  let s1 := s.opcodeRead.cycle
  let s2 := s1.imm8Cycle
  (s.peek s.pc, s1.peek (s.pc + 1), s2.peek (s.pc + 2))

/-- The primary-table entry that the fetch at PC selects, with the operand bytes it reads (R352). -/
def State.fetchedEntry (s : State) : Option Instr :=
  primaryEntry s.fetchedBytes.1 s.fetchedBytes.2.1 s.fetchedBytes.2.2

/-- Part 6 of the step: fetch the opcode and perform the primary-table entry for it (R352). -/
def State.instruction (s : State) : Host.Outcome State Fault Refusal :=
  match s.fetchedEntry with
  | some i => exec i s.opcodeRead
  | none => .refused (.unmappedOpcode (s.peek s.pc))

/-- Parts 3 to 6 of the step: a core still halted idles (R349); else commit, breakpoint check, instruction. -/
def State.afterController (s : State) : Host.Outcome State Fault Refusal :=
  if !s.running then .next s.idle
  else if s.commit.breakpoint.1 then .next s.commit.breakpoint.2
  else s.commit.breakpoint.2.instruction

/-- The whole step (R343): a blocked or stopped core only ticks (R344); then the controller; a dispatch ends the step. -/
def stepOnce (s : State) : Host.Outcome State Fault Refusal :=
  if s.blocked || s.stopped then .next s.idle
  else if s.controller.1 then .next s.controller.2
  else s.controller.2.afterController

/-- The bytes of an opcode-table word stored from PC on, wrapping (R62). -/
def State.storeWord (s : State) (nbits w : Nat) : State :=
  let x := tableBytes nbits w
  let m := s.mem.write s.pc.toNat x.1
  let m := m.write (s.pc + 1).toNat x.2.1
  s.setMem (m.write (s.pc + 2).toNat x.2.2)

/-- A state whose next step reaches its fetch: not blocked, not stopped, running, IME 0 (the commit sets it from `IME_next` all
the same) and no breakpoint at PC. -/
def State.readyToFetch (s : State) : State :=
  { s with blocked := false, stopped := false, running := true, ime := false,
           execBp := s.execBp.filter (fun a => a != s.pc) }

end Sys2Proof.Machine
end

