-- ==== Sys2Proof/Machine/Step.lean ====
section
/-! DEFINITION. `Step()`, the single transition of the machine (rule R343), and the placing of an instruction where the next
step fetches. -/

namespace Sys2Proof.Machine

/-- "`Step()` is the only transition of the core" (R343). -/
def step (s : State) : Host.Outcome State Fault Refusal := stepOnce s

/-- The state with an opcode-table word stored where the next step fetches, and nothing in the way of that fetch. It stands for
the loading of a program from outside the machine (log entry 6). -/
def State.withFetchWord (s : State) (nbits w : Nat) : State := (s.readyToFetch).storeWord nbits w

end Sys2Proof.Machine
end

