-- ==== Sys2Proof/Machine/HostOps.lean ====
section
/-! DEFINITION. What the host and the environment may do between two steps (rules R74, R362, R390). -/

namespace Sys2Proof.Machine

/-- `reset(RESET_REGS)` (R41, R390): registers from the argument, F masked, `clock` 0, running, not stopped, both latches and
both debug flags 0. No bus access, no tick; memory, `blocked`, the breakpoints and the environment's queue are not touched. -/
def State.hostReset (s : State) (regs : ResetRegs) : State :=
  { s with
    a := regs.a, f := regs.f &&& 0xF0, b := regs.b, c := regs.c, d := regs.d, e := regs.e, h := regs.h, l := regs.l
    sp := regs.sp, pc := regs.pc
    clock := 0, running := true, stopped := false, ime := false, imeNext := false
    trapped := false, trapResolved := false }

/-- `jump(address)`: `PC <- address mod 65536` and nothing else (R362, D26). -/
def State.hostJump (s : State) (address : Nat) : State := s.setPc (BitVec.ofNat 16 address)

/-- An action of the environment between two steps (R74). -/
def State.envBetween (s : State) (x : EnvAction) : State := applyEnv x s

/-- The environment schedules an action for a later `Tick` (R74). -/
def State.envSchedule (s : State) (x : TimedAction) : State := { s with env := s.env ++ [x] }

/-- The host's breakpoint setter (R39, R362). -/
def State.setBreakpoints (s : State) (bps : List Word) : State := { s with execBp := bps }

/-- The host resumes from a debug trap: it clears `trapped` and sets `trap_resolved` (R351). -/
def State.resumeTrap (s : State) : State := { s with trapped := false, trapResolved := true }

end Sys2Proof.Machine
end

