-- ==== Sys2Proof/Safety.lean ====
section
/-! DEFINITION. The vocabulary of the claims: the machine's invariant, what the environment leaves alone, and the frame of an
instruction. -/

namespace Sys2Proof.Machine

/-- The invariant of the machine: "F's low nibble is always zero" (R23), and memory is in its canonical form. -/
def State.Inv (s : State) : Prop := s.f &&& 0x0F = 0 ∧ s.mem.wf

/-- The address an action of the environment writes, if it writes one. -/
def EnvAction.target (x : EnvAction) (cfg : Config) : Option Word :=
  match x with
  | .write a _ => some a
  | .raise _ => some cfg.ifAddr
  | .setBlocked _ => none
  | .wakeStop => none

/-- The environment writes nothing at an address while `clock` is at most `until_` (R74: it may write at any tick). -/
def State.EnvSpares (s : State) (until_ : Nat) (a : Word) : Prop :=
  ∀ x ∈ s.env, x.due ≤ until_ → x.action.target s.config ≠ some a

/-- The environment does nothing at all while `clock` is at most `until_`. -/
def State.EnvIdle (s : State) (until_ : Nat) : Prop := ∀ x ∈ s.env, until_ < x.due

/-- The events from `s` to `t` are `evs`, in order of occurrence (R11). -/
def BusLog (s t : State) (evs : List BusEvent) : Prop := t.history = evs.reverse ++ s.history

/-- `v` is the byte at an address, unless the environment writes that address by the clock value given (R61, R74). -/
def State.Holds (s : State) (until_ : Nat) (a : Word) (v : Byte) : Prop := s.EnvSpares until_ a → v = s.peek a

/-- F holds exactly these four flags (R23). -/
def FlagsAre (t : State) (z n h c : Bool) : Prop :=
  flagZ t.f = z ∧ flagN t.f = n ∧ flagH t.f = h ∧ flagC t.f = c ∧ t.f &&& 0x0F = 0

/-- Every general register but those listed is unchanged (R20). -/
def KeepsRegs (s t : State) (except : List Reg8) : Prop := ∀ r, r ∉ except → t.reg r = s.reg r

/-- The debug state and the configuration are unchanged (R39, R42). -/
def KeepsDebug (s t : State) : Prop :=
  t.trapped = s.trapped ∧ t.trapResolved = s.trapResolved ∧ t.execBp = s.execBp ∧ t.config = s.config

/-- The run-control, interrupt-enable and debug state and the configuration are unchanged (R28, R30, R31, R39, R42). -/
def KeepsControl (s t : State) : Prop :=
  t.running = s.running ∧ t.ime = s.ime ∧ t.imeNext = s.imeNext ∧ KeepsDebug s t

/-- `stopped` and `blocked`, which the environment alone may change meanwhile (R29, R32), are unchanged where it is idle. -/
def KeepsHolds (s t : State) : Prop :=
  s.EnvIdle t.clock → t.stopped = s.stopped ∧ t.blocked = s.blocked ∧ t.env = s.env

/-- Every byte outside `stored` that the environment does not write meanwhile reads as before (R61, R71, R74). -/
def KeepsMemory (s t : State) (stored : List Word) : Prop :=
  ∀ a, a ∉ stored → s.EnvSpares t.clock a → t.peek a = s.peek a

/-- The byte stored at an address is there at the end, unless the environment writes that address meanwhile (R61, R74). -/
def Stores (s t : State) (a : Word) (v : Byte) : Prop := s.EnvSpares t.clock a → t.peek a = v

/-- The frame of an instruction that leaves every state but the registers `except`, F, SP, PC, the bytes `stored`, the clock and
the history: the rest of the machine is as before. -/
def Frame (s t : State) (except : List Reg8) (stored : List Word) : Prop :=
  KeepsRegs s t except ∧ KeepsControl s t ∧ KeepsHolds s t ∧ KeepsMemory s t stored

/-! ## The common shapes of an instruction: program counter, clock cost and events (rules R25, R401, R11) -/

/-- One byte, the opcode's machine cycle alone. -/
def OneCycle (s t : State) : Prop := t.pc = s.pc + 1 ∧ t.clock = s.clock + 4 ∧ BusLog s t [.tick 4]

/-- One byte, the opcode's machine cycle and an internal one. -/
def InternalCycle (s t : State) : Prop := t.pc = s.pc + 1 ∧ t.clock = s.clock + 8 ∧ BusLog s t [.tick 4, .tick 4]

/-- One byte and one data read, of the byte `v` at `a`. -/
def ReadCycle (s t : State) (a : Word) (v : Byte) : Prop :=
  t.pc = s.pc + 1 ∧ t.clock = s.clock + 8 ∧ BusLog s t [.tick 4, .read a v, .tick 4] ∧ s.Holds (s.clock + 4) a v

/-- One byte and one data write. -/
def WriteCycle (s t : State) (a : Word) (v : Byte) : Prop :=
  t.pc = s.pc + 1 ∧ t.clock = s.clock + 8 ∧ BusLog s t [.tick 4, .write a v, .tick 4] ∧ Stores s t a v

/-- The byte read after the opcode, in the machine cycle that follows the opcode's (R72, R92, R230). -/
def ReadsSecondByte (s : State) (x : Byte) : Prop := s.Holds (s.clock + 4) (s.pc + 1) x

/-- The two bytes read after the opcode, each in its own machine cycle (R72, R92). -/
def ReadsBothBytes (s : State) (x y : Byte) : Prop := ReadsSecondByte s x ∧ s.Holds (s.clock + 8) (s.pc + 2) y

/-- Two bytes: the opcode's machine cycle and the read of the byte after it. -/
def SecondByteCycle (s t : State) : Prop :=
  t.pc = s.pc + 2 ∧ t.clock = s.clock + 8 ∧
    ∃ w, BusLog s t [.tick 4, .read (s.pc + 1) w, .tick 4] ∧ ReadsSecondByte s w

/-- The registers a 16-bit operand is made of (R22, R37). -/
def pairRegs : Pair16 → List Reg8
  | .bc => [.b, .c] | .de => [.d, .e] | .hl => [.h, .l] | .sp => []

/-- A core that may run an instruction this step: not blocked, not stopped, running, no breakpoint at PC (R344, R349, R351). -/
def State.Ready (s : State) : Prop :=
  s.blocked = false ∧ s.stopped = false ∧ s.running = true ∧ (s.config.debugPresent = false ∨ s.pc ∉ s.execBp)

/-- The bytes that an instruction at PC takes decode to `i`, and the environment leaves the two after the opcode alone until they
have been read (R72, R74, R103). -/
def State.AtPc (s : State) (i : Instr) : Prop :=
  s.EnvSpares (s.clock + 4) (s.pc + 1) ∧ s.EnvSpares (s.clock + 8) (s.pc + 2) ∧
    ∃ rest, decode [s.peek s.pc, s.peek (s.pc + 1), s.peek (s.pc + 2)] = .ok (i, rest)

/-- Interrupt source `i` is the one the controller selects: pending, enabled, considered, and no lower one is (R345, R346). -/
def State.Selects (s : State) (i : Nat) : Prop :=
  i < 8 ∧ ((s.peek s.config.ieAddr &&& s.peek s.config.ifAddr &&& s.config.intMask).getLsbD i = true) ∧
    ∀ j, j < i → (s.peek s.config.ieAddr &&& s.peek s.config.ifAddr &&& s.config.intMask).getLsbD j = false

/-- No interrupt source is pending, enabled and considered (R345). -/
def State.NonePending (s : State) : Prop := s.peek s.config.ieAddr &&& s.peek s.config.ifAddr &&& s.config.intMask = 0

/-- The state in which an instruction's own rule begins: the enable latch committed (R350) and the opcode read (R352). -/
def State.fetched (s : State) : State := (s.setIme s.imeNext).record (.read s.pc (s.peek s.pc))

/-- The state after the two reads of a poll (R345). -/
def State.polled (s : State) : State :=
  (s.record (.read s.config.ieAddr (s.peek s.config.ieAddr))).record (.read s.config.ifAddr (s.peek s.config.ifAddr))

/-! ## The tables of the whole-machine rules -/

/-- A column of the flag table of rule R24: forced to a value, written from the result, or unchanged. -/
inductive FlagRule
  | forced (b : Bool)
  | written
  | kept
  deriving DecidableEq, Repr

/-- A flag before and after obeys its column. -/
def FlagRule.obeyed (q : FlagRule) (before after : Bool) : Prop :=
  match q with
  | .forced b => after = b
  | .written => True
  | .kept => after = before

/-- The flag table of rule R24, columns Z, N, H, C; `none` for the instructions the table does not list, which write no flag. -/
def flagTable (cfg : Config) (i : Instr) : Option (FlagRule × FlagRule × FlagRule × FlagRule) :=
  match i with
  | .addAR _ | .addAHl | .addAD8 _ | .adcAR _ | .adcAHl | .adcAD8 _ => some (.written, .forced false, .written, .written)
  | .subR _ | .subHl | .subD8 _ | .sbcAR _ | .sbcAHl | .sbcAD8 _ | .cpR _ | .cpHl | .cpD8 _ =>
    some (.written, .forced true, .written, .written)
  | .andR _ | .andHl | .andD8 _ => some (.written, .forced false, .forced true, .forced false)
  | .xorR _ | .xorHl | .xorD8 _ | .orR _ | .orHl | .orD8 _ => some (.written, .forced false, .forced false, .forced false)
  | .incR _ | .incHl => some (.written, .forced false, .written, .kept)
  | .decR _ | .decHl => some (.written, .forced true, .written, .kept)
  | .daa => some (.written, .kept, .forced false, .written)
  | .cpl => some (.kept, .forced true, .forced true, .kept)
  | .scf => some (.kept, .forced false, .forced false, .forced true)
  | .ccf => some (.kept, .forced false, .forced false, .written)
  | .rlca | .rrca | .rla | .rra => some (.forced cfg.accRotZ, .forced false, .forced false, .written)
  | .rlcR _ | .rlcHl | .rrcR _ | .rrcHl | .rlR _ | .rlHl | .rrR _ | .rrHl | .slaR _ | .slaHl | .sraR _ | .sraHl | .srlR _
  | .srlHl => some (.written, .forced false, .forced false, .written)
  | .swapR _ | .swapHl => some (.written, .forced false, .forced false, .forced false)
  | .bitBR _ _ | .bitBHl _ => some (.written, .forced false, .forced true, .kept)
  | .addHlRr _ => some (.kept, .forced false, .written, .written)
  | .addSpE8 _ | .ldHlSpE8 _ => some (.forced false, .forced false, .written, .written)
  | .popAf | .popRr .af => some (.written, .written, .written, .written)
  | _ => none

/-- The clock table of rule R400, with F for the conditional forms. -/
def clockTable (cfg : Config) (i : Instr) (f : Byte) : Nat :=
  match i with
  | .undefD3 | .undefDB | .undefDD | .undefE3 | .undefE4 | .undefEB | .undefEC | .undefED | .undefF4 | .undefFC | .undefFD =>
    cfg.undefTicks
  | .nop | .ldRR _ _ | .addAR _ | .adcAR _ | .subR _ | .sbcAR _ | .andR _ | .xorR _ | .orR _ | .cpR _ | .incR _ | .decR _
  | .daa | .cpl | .scf | .ccf | .rlca | .rrca | .rla | .rra | .jpHl | .di | .ei | .halt | .stop => 4
  | .ldRHl _ | .ldHlR _ | .ldRD8 _ _ | .ldABc | .ldADe | .ldBcA | .ldDeA | .ldAHli | .ldAHld | .ldHliA | .ldHldA | .ldAC
  | .ldCA | .ldSpHl | .addAHl | .adcAHl | .subHl | .sbcAHl | .andHl | .xorHl | .orHl | .cpHl | .addAD8 _ | .adcAD8 _
  | .subD8 _ | .sbcAD8 _ | .andD8 _ | .xorD8 _ | .orD8 _ | .cpD8 _ | .addHlRr _ | .incRr _ | .decRr _ => 8
  | .ldHlD8 _ | .ldhAA8 _ | .ldhA8A _ | .ldRrD16 _ _ | .ldHlSpE8 _ | .incHl | .decHl | .jrE8 _ | .popRr _ | .popAf => 12
  | .ldAA16 _ | .ldA16A _ | .jpA16 _ | .ret | .reti | .rst _ | .pushRr _ | .addSpE8 _ => 16
  | .ldA16Sp _ => 20
  | .callA16 _ => 24
  | .jpCcA16 cc _ => if condHolds cc f then 16 else 12
  | .jrCcE8 cc _ => if condHolds cc f then 12 else 8
  | .callCcA16 cc _ => if condHolds cc f then 24 else 12
  | .retCc cc => if condHolds cc f then 20 else 8
  | .prefixCb _ => 8
  | .rlcR _ | .rrcR _ | .rlR _ | .rrR _ | .slaR _ | .sraR _ | .swapR _ | .srlR _ | .bitBR _ _ | .resBR _ _ | .setBR _ _ => 8
  | .bitBHl _ => 12
  | .rlcHl | .rrcHl | .rlHl | .rrHl | .slaHl | .sraHl | .swapHl | .srlHl | .resBHl _ | .setBHl _ => 16

/-- The instructions that may leave PC elsewhere than at the next instruction in memory (R25, 43_control_transfer.md). -/
def transfers (i : Instr) (f : Byte) : Bool :=
  match i with
  | .jpA16 _ | .jpHl | .jrE8 _ | .callA16 _ | .ret | .reti | .rst _ => true
  | .jpCcA16 cc _ | .jrCcE8 cc _ | .callCcA16 cc _ | .retCc cc => condHolds cc f
  | _ => false

/-- The instructions that write SP (R26). -/
def writesSp (i : Instr) : Bool :=
  match i with
  | .ldRrD16 .sp _ | .ldSpHl | .incRr .sp | .decRr .sp | .addSpE8 _ | .pushRr _ | .popRr _ | .popAf | .callA16 _
  | .callCcA16 _ _ | .ret | .retCc _ | .reti | .rst _ => true
  | _ => false

/-- Every bus access of a list of events, in order of occurrence, is followed at once by its own `Tick(4)` (R67). -/
def paced : List BusEvent → Bool
  | [] => true
  | .tick _ :: rest => paced rest
  | .read _ _ :: .tick n :: rest => n == 4 && paced rest
  | .write _ _ :: .tick n :: rest => n == 4 && paced rest
  | _ => false

/-- The clock units of a list of events. -/
def totalTicks : List BusEvent → Nat
  | [] => 0
  | .tick n :: rest => n + totalTicks rest
  | _ :: rest => totalTicks rest

end Sys2Proof.Machine
end

