-- ==== Sys2Proof/WellFormed.lean ====
section
/-! DEFINITION. Which terms of `Instr` are instructions a program can hold: the operand constraints of the opcode table
that the operand types do not already impose (rules R95, R100). -/

namespace Sys2Proof

/-- The checks: POP rr excludes the pair field 3, whose opcode is POP AF's (R95, R303: "rr != 3"), and the prefix 0xCB
"is not an instruction by itself" (R100): its two bytes are the secondary instruction. Every other operand value is
admitted by its type alone (register fields have no value 6, bit numbers and restart fields are three bits). -/
def Instr.wellFormed : Instr → Bool
  | .popRr p => p != .af
  | .prefixCb _ => false
  | .undefD3 | .undefDB | .undefDD | .undefE3 | .undefE4 | .undefEB | .undefEC | .undefED | .undefF4 | .undefFC
  | .undefFD | .nop | .ldRrD16 _ _ | .ldBcA | .ldDeA | .ldHliA | .ldHldA | .ldABc | .ldADe | .ldAHli | .ldAHld
  | .incRr _ | .decRr _ | .addHlRr _ | .incR _ | .incHl | .decR _ | .decHl | .ldRD8 _ _ | .ldHlD8 _ | .rlca | .rrca
  | .rla | .rra | .daa | .cpl | .scf | .ccf | .ldA16Sp _ | .stop | .jrE8 _ | .jrCcE8 _ _ | .ldRR _ _ | .ldRHl _
  | .ldHlR _ | .halt | .addAR _ | .addAHl | .adcAR _ | .adcAHl | .subR _ | .subHl | .sbcAR _ | .sbcAHl | .andR _
  | .andHl | .xorR _ | .xorHl | .orR _ | .orHl | .cpR _ | .cpHl | .addAD8 _ | .adcAD8 _ | .subD8 _ | .sbcAD8 _
  | .andD8 _ | .xorD8 _ | .orD8 _ | .cpD8 _ | .retCc _ | .popAf | .jpCcA16 _ _ | .jpA16 _ | .callCcA16 _ _ | .pushRr _
  | .rst _ | .ret | .reti | .callA16 _ | .ldhA8A _ | .ldhAA8 _ | .ldCA | .ldAC | .addSpE8 _ | .ldHlSpE8 _ | .jpHl
  | .ldSpHl | .ldA16A _ | .ldAA16 _ | .di | .ei | .rlcR _ | .rlcHl | .rrcR _ | .rrcHl | .rlR _ | .rlHl | .rrR _
  | .rrHl | .slaR _ | .slaHl | .sraR _ | .sraHl | .swapR _ | .swapHl | .srlR _ | .srlHl | .bitBR _ _ | .bitBHl _
  | .resBR _ _ | .resBHl _ | .setBR _ _ | .setBHl _ => true

end Sys2Proof
end

