-- ==== Sys2Proof/Certificates/Slice0/Obligations.lean ====
section
/-! DEFINITION. The statements about the machine. Each says which rule of the spec it formalises. A clause of the form
"unless the environment writes there meanwhile" is `Holds`, `Stores` or `KeepsMemory` of Safety.lean (rules R66, R74); that the
environment's memory is flat RAM, changed by a queue of timed actions, is the model's choice (log entries 3 and 15). -/

open Sys2Proof Sys2Proof.Machine

/-! ## Reset, the host's operations -/

/-- R390: what `reset(RESET_REGS)` loads, and what it does not touch; no bus access and no tick. -/
def Obligations.HostResetLoadsRegisters : Prop :=
  ∀ (s : State) (q : ResetRegs), ∃ t, s.hostReset q = t ∧
    t.a = q.a ∧ t.f = q.f &&& 0xF0 ∧ t.b = q.b ∧ t.c = q.c ∧ t.d = q.d ∧ t.e = q.e ∧ t.h = q.h ∧ t.l = q.l ∧
    t.sp = q.sp ∧ t.pc = q.pc ∧ t.clock = 0 ∧ t.running = true ∧ t.stopped = false ∧ t.ime = false ∧ t.imeNext = false ∧
    t.trapped = false ∧ t.trapResolved = false ∧
    t.mem = s.mem ∧ t.blocked = s.blocked ∧ t.execBp = s.execBp ∧ t.history = s.history ∧ t.env = s.env ∧
    t.config = s.config

/-- R41: the default values of the reset table, which the rule marks as general knowledge and as decided (log entry 7). -/
def Obligations.ResetStateHasTheDefaults : Prop :=
  State.reset.a = 0x01 ∧ State.reset.f = 0xB0 ∧ State.reset.b = 0x00 ∧ State.reset.c = 0x13 ∧ State.reset.d = 0x00 ∧
  State.reset.e = 0xD8 ∧ State.reset.h = 0x01 ∧ State.reset.l = 0x4D ∧ State.reset.sp = 0xFFFE ∧ State.reset.pc = 0x0100 ∧
  State.reset.clock = 0 ∧ State.reset.running = true ∧ State.reset.stopped = false ∧ State.reset.ime = false ∧
  State.reset.imeNext = false ∧ State.reset.trapped = false ∧ State.reset.trapResolved = false

/-- The invariant holds right after reset; that reset memory lists nothing is the model's choice (log entries 1 and 2). -/
def Obligations.ResetMeetsInv : Prop := State.reset.Inv

/-- Every step keeps the invariant: F's low nibble is zero (R23), and memory is in its canonical form, which is the model's own
(log entry 1). -/
def Obligations.StepKeepsInv : Prop := ∀ s t : State, s.Inv → step s = .next t → t.Inv

/-- R362: `jump(address)` is `PC <- address mod 65536` and nothing else; `wake_stop` (R29) clears `stopped` and nothing else. -/
def Obligations.HostJumpAndWakeStop : Prop :=
  (∀ (s : State) (n : Nat), (s.hostJump n).pc.toNat = n % 65536 ∧ { s.hostJump n with pc := s.pc } = s) ∧
  (∀ s : State, (s.envBetween .wakeStop).stopped = false ∧ { s.envBetween .wakeStop with stopped := s.stopped } = s)

/-! ## Encoding and decoding -/

/-- Decoding an encoded well-formed instruction gives it back, with the bytes after it (R96, R97; that POP rr with the field of
POP AF and the bare prefix are not well formed is log entry 8). -/
def Obligations.DecodeInvertsEncode : Prop :=
  ∀ (i : Instr) (rest : List Byte), i.wellFormed = true → decode (encode i ++ rest) = .ok (i, rest)

/-- What the decoder accepts is well formed, and encoding it gives the bytes it was read from; the pad byte of STOP is not part
of the instruction (R102, R311; log entry 11). -/
def Obligations.EncodeInvertsDecode : Prop :=
  ∀ (bytes rest : List Byte) (i : Instr), decode bytes = .ok (i, rest) →
    i.wellFormed = true ∧ (i ≠ .stop → bytes = encode i ++ rest) ∧ (i = .stop → ∃ pad, bytes = 0x10 :: pad :: rest)

/-- R98: all 256 primary-table and all 256 secondary-table entries are non-null, and every one holds an instruction; 11 primary
values are the undefined opcodes, one is the prefix, the other 244 are defined instructions. -/
def Obligations.EveryTableSlotIsFilled : Prop :=
  (∀ op b1 b2 : Byte, (slot primaryRules op).isSome = true ∧ (primaryEntry op b1 b2).isSome = true) ∧
  (∀ op2 : Byte, (slot secondaryRules op2).isSome = true ∧ (secondaryEntry op2).isSome = true) ∧
  (∀ op : Byte, primaryEntry op 0 0 ∈ ([.undefD3, .undefDB, .undefDD, .undefE3, .undefE4, .undefEB, .undefEC, .undefED,
      .undefF4, .undefFC, .undefFD] : List Instr).map some ↔
    op ∈ ([0xD3, 0xDB, 0xDD, 0xE3, 0xE4, 0xEB, 0xEC, 0xED, 0xF4, 0xFC, 0xFD] : List Byte)) ∧
  (∀ op : Byte, primaryEntry op 0 0 = some (.prefixCb 0) ↔ op = 0xCB)

/-- R95: the later-declared rule wins a slot; it is the one rule that matches when the `constraints` are honoured; opcode 0x76 is
HALT although `LD r,r'` matches it too. -/
def Obligations.OverridePriority : Prop :=
  (∀ v : Byte, ((primaryRules.filter (fun q => q.agrees v)).getLast?).map (fun q => (q.pattern, q.length)) =
    (slot primaryRules v).map (fun q => (q.pattern, q.length))) ∧
  (∀ v : Byte, ((secondaryRules.filter (fun q => q.agrees v)).getLast?).map (fun q => (q.pattern, q.length)) =
    (slot secondaryRules v).map (fun q => (q.pattern, q.length))) ∧
  (∀ v : Byte, (primaryRules.filter (fun q => q.agreesConstrained v)).map (fun q => (q.pattern, q.length)) =
    ((slot primaryRules v).map (fun q => (q.pattern, q.length))).toList) ∧
  (∀ v : Byte, (secondaryRules.filter (fun q => q.agreesConstrained v)).map (fun q => (q.pattern, q.length)) =
    ((slot secondaryRules v).map (fun q => (q.pattern, q.length))).toList) ∧
  (primaryRules.filter (fun q => q.agrees 0x76)).length = 4 ∧ ∀ b1 b2 : Byte, primaryEntry 0x76 b1 b2 = some .halt

/-- R91: the length of an instruction is a function of its first byte, and the decoder takes that many bytes; after 0xCB the
next byte is a secondary opcode, even if it is 0xCB itself. -/
def Obligations.LengthByFirstByte : Prop :=
  (∀ (op : Byte) (tail rest : List Byte) (i : Instr), decode (op :: tail) = .ok (i, rest) →
    (op :: tail).length = lengthOf op + rest.length) ∧
  (∀ (op2 : Byte) (rest : List Byte), decode (0xCB :: op2 :: rest) = (match secondaryEntry op2 with
    | some i => .ok (i, rest)
    | none => .error (.unmapped 0xCB))) ∧
  secondaryEntry 0xCB = some (.setBR 1 .e) ∧
  ∀ op : Byte, lengthOf op =
    if op ∈ ([0x01, 0x11, 0x21, 0x31, 0x08, 0xC2, 0xC3, 0xC4, 0xCA, 0xCC, 0xCD, 0xD2, 0xD4, 0xDA, 0xDC, 0xEA, 0xFA]
      : List Byte) then 3
    else if op ∈ ([0x06, 0x0E, 0x16, 0x1E, 0x26, 0x2E, 0x36, 0x3E, 0x10, 0x18, 0x20, 0x28, 0x30, 0x38, 0xC6, 0xCE, 0xD6,
      0xDE, 0xE6, 0xEE, 0xF6, 0xFE, 0xE0, 0xF0, 0xE8, 0xF8, 0xCB] : List Byte) then 2
    else 1

/-- Some words written out from the encodings of rules R96 and R97 decode to the instructions they stand for. -/
def Obligations.SampleWordsDecode : Prop :=
  decode [0x00] = .ok (.nop, []) ∧
  decode [0x78] = .ok (.ldRR .a .b, []) ∧
  decode [0x3E, 0x42] = .ok (.ldRD8 .a 0x42, []) ∧
  decode [0x31, 0xFE, 0xFF] = .ok (.ldRrD16 .sp 0xFFFE, []) ∧
  decode [0x86] = .ok (.addAHl, []) ∧
  decode [0x20, 0xFC] = .ok (.jrCcE8 .nz 0xFC, []) ∧
  decode [0xDC, 0x34, 0x12] = .ok (.callCcA16 .c 0x1234, []) ∧
  decode [0xEF] = .ok (.rst 5, []) ∧
  decode [0xF1] = .ok (.popAf, []) ∧
  decode [0x76] = .ok (.halt, []) ∧
  decode [0xED, 0x42] = .ok (.undefED, [0x42]) ∧
  decode [0xCB, 0x7C] = .ok (.bitBR 7 .h, []) ∧
  decode [0xCB, 0xCB] = .ok (.setBR 1 .e, []) ∧
  decode [0xCB] = .error .truncated

/-! ## The step loop -/

/-- R343, R350, R352: a core that may run and that dispatches no interrupt commits the enable latch, reads the opcode and performs
the instruction at PC. The three ways to get there: no poll, a poll that finds nothing, a poll that only wakes. `AtPc` asks the
environment to leave the operand bytes alone until they are read (log entry 5). -/
def Obligations.StepRunsDecodedInstruction : Prop :=
  ∀ (s : State) (i : Instr), s.blocked = false → s.stopped = false →
    (s.config.debugPresent = false ∨ s.pc ∉ s.execBp) → s.AtPc i →
    (s.running = true → s.ime = false → step s = exec i s.fetched) ∧
    (s.running = true → s.ime = true → s.NonePending → step s = exec i s.polled.fetched) ∧
    (s.running = false → s.ime = false → ¬ s.NonePending → step s = exec i (s.polled.setRunning true).fetched)

/-- R340, R363: no step faults, none is refused; `Step` can always be called again. -/
def Obligations.EveryStepAnswersNext : Prop :=
  (∀ s : State, ∃ t, step s = .next t) ∧ (∀ (i : Instr) (s : State), ∃ t, exec i s = .next t)

/-- R344: a blocked or stopped core only ticks: no bus access, no commit, no wake. R349: so does a halted core that no enabled
source wakes, after its two polling reads. -/
def Obligations.SuspendedCoreOnlyTicks : Prop :=
  (∀ s : State, s.blocked = true ∨ s.stopped = true →
    ∃ t, step s = .next t ∧ t.clock = s.clock + s.config.idleTick ∧ BusLog s t [.tick s.config.idleTick] ∧
      t.pc = s.pc ∧ t.sp = s.sp ∧ t.f = s.f ∧ Frame s t [] []) ∧
  (∀ s : State, s.blocked = false → s.stopped = false → s.running = false → s.NonePending →
    ∃ t, step s = .next t ∧ t.clock = s.clock + s.config.idleTick ∧
      BusLog s t [.read s.config.ieAddr (s.peek s.config.ieAddr), .read s.config.ifAddr (s.peek s.config.ifAddr),
        .tick s.config.idleTick] ∧
      t.pc = s.pc ∧ t.sp = s.sp ∧ t.f = s.f ∧ Frame s t [] [])

/-- R347: an enabled pending source wakes a halted core with IME = 0, which then runs the instruction at PC in the same step; the
pending bit stays, nothing is pushed, PC does not jump to a vector (NOP shown). -/
def Obligations.HaltWakesWithoutDispatch : Prop :=
  ∀ s : State, s.blocked = false → s.stopped = false → s.running = false → s.ime = false → ¬ s.NonePending →
    (s.config.debugPresent = false ∨ s.pc ∉ s.execBp) → s.AtPc .nop →
    ∃ t, step s = .next t ∧ t.running = true ∧ t.pc = s.pc + 1 ∧ t.sp = s.sp ∧ t.f = s.f ∧ t.clock = s.clock + 4 ∧
      t.ime = s.imeNext ∧ t.imeNext = s.imeNext ∧ KeepsRegs s t [] ∧ KeepsMemory s t [] ∧
      BusLog s t [.read s.config.ieAddr (s.peek s.config.ieAddr), .read s.config.ifAddr (s.peek s.config.ifAddr),
        .read s.pc (s.peek s.pc), .tick 4]

/-- R348 with R346: the lowest pending enabled source is dispatched when IME is 1, halted or not. The IF bit and both latches are
cleared, PC is pushed high byte first, PC becomes the vector, `INT_DISPATCH_TICKS` pass, and nothing else changes.
The events are those of the rule. How a value of `INT_DISPATCH_TICKS` other than 20 is spread is the model's choice (log entry 10):
the pushes and the jump take 12 of the ticks. -/
def Obligations.InterruptDispatch : Prop :=
  ∀ (s : State) (i : Nat), s.blocked = false → s.stopped = false → s.ime = true → s.Selects i →
    ∃ t, step s = .next t ∧
      t.pc = s.config.intVectorBase + BitVec.ofNat 16 (8 * i) ∧ t.sp = s.sp - 2 ∧
      t.ime = false ∧ t.imeNext = false ∧ t.running = true ∧
      (12 ≤ s.config.intDispatchTicks → t.clock = s.clock + s.config.intDispatchTicks) ∧
      BusLog s t [.read s.config.ieAddr (s.peek s.config.ieAddr), .read s.config.ifAddr (s.peek s.config.ifAddr),
        .write s.config.ifAddr (s.peek s.config.ifAddr &&& ~~~(1#8 <<< i)), .tick (s.config.intDispatchTicks - 12),
        .write (s.sp - 1) (hiByte s.pc), .tick 4, .write (s.sp - 2) (loByte s.pc), .tick 4, .tick 4] ∧
      Stores s t (s.sp - 1) (hiByte s.pc) ∧ Stores s t (s.sp - 2) (loByte s.pc) ∧
      (s.config.ifAddr ≠ s.sp - 1 → s.config.ifAddr ≠ s.sp - 2 →
        Stores s t s.config.ifAddr (s.peek s.config.ifAddr &&& ~~~(1#8 <<< i))) ∧
      t.f = s.f ∧ KeepsDebug s t ∧ KeepsRegs s t [] ∧ KeepsHolds s t ∧
      KeepsMemory s t [s.config.ifAddr, s.sp - 1, s.sp - 2]

/-- R309, R350, R345, R393: with IME = 0 before `EI`, exactly one more instruction executes after it before an interrupt can be
dispatched. `EI` leaves IME = 0 and IME_next = 1; in such a state the step runs one instruction, whatever is pending, and leaves
IME = 1 (unless the instruction is an undelayed DI, R308); after it a selected source is dispatched. Where that instruction is a
delayed DI, that IME is 1 and a dispatch follows is the model's choice (log entry 21, DEDUCED): it follows the corner case of R309
and the order of R343 against the corner case of R308, which leaves both latches 0. `AtPc` asks the environment to leave the
operand bytes alone until they are read (log entry 5). -/
def Obligations.EnableTakesOneMoreInstruction : Prop :=
  (∀ s : State, s.ime = false → ∃ e, exec .ei s = .next e ∧ e.ime = false ∧ e.imeNext = true) ∧
  ∀ (s : State) (i : Instr), s.Ready → s.ime = false → s.imeNext = true → s.AtPc i →
    ∃ t, step s = .next t ∧ exec i s.fetched = .next t ∧
      ((i ≠ .di ∨ s.config.diDelayed = true) → t.ime = true ∧
        ∀ n, t.blocked = false → t.stopped = false → t.Selects n →
          ∃ u, step t = .next u ∧ u.pc = t.config.intVectorBase + BitVec.ofNat 16 (8 * n))

/-- R394: under `DI_DELAYED` IME is still 1 after `DI`, so a source pending then is dispatched, with the saved PC that of the
instruction after `DI`; if none is pending, the next instruction runs with IME = 0. -/
def Obligations.DisableLeavesOneWindow : Prop :=
  ∀ s : State, s.ime = true → s.config.diDelayed = true →
    ∃ t, exec .di s = .next t ∧ t.ime = true ∧ t.imeNext = false ∧ t.pc = s.pc + 1 ∧
      (∀ n, t.blocked = false → t.stopped = false → t.Selects n →
        ∃ u, step t = .next u ∧ u.pc = t.config.intVectorBase + BitVec.ofNat 16 (8 * n) ∧
          Stores t u (t.sp - 1) (hiByte (s.pc + 1)) ∧ Stores t u (t.sp - 2) (loByte (s.pc + 1))) ∧
      (∀ i, t.Ready → t.NonePending → t.AtPc i →
        t.polled.fetched.ime = false ∧ step t = exec i t.polled.fetched)

/-- R351: at a breakpoint the step traps after the poll and the commit, without a further bus access, a tick or a change of PC; a step
whose trap was just resolved clears the flag and runs the instruction. `u` is the state after part 2 of the step, on each of the
three paths that reach the check: no poll, a poll that finds nothing, a poll that only wakes. -/
def Obligations.BreakpointTrapsBeforeTheFetch : Prop :=
  ∀ s u : State, s.blocked = false → s.stopped = false →
    ((s.running = true ∧ s.ime = false ∧ u = s) ∨
      (s.running = true ∧ s.ime = true ∧ s.NonePending ∧ u = s.polled) ∨
      (s.running = false ∧ s.ime = false ∧ ¬ s.NonePending ∧ u = s.polled.setRunning true)) →
    s.config.debugPresent = true → s.pc ∈ s.execBp →
    (s.trapResolved = false → step s = .next { u.setIme s.imeNext with trapped := true }) ∧
    (∀ i, s.trapResolved = true → s.AtPc i → step s = exec i { u with trapResolved := false }.fetched)

/-- R363: `JR -2` at PC, with IME = IME_next = 0 and nothing in the environment's queue, is the end of a run: only `clock` and the
record of events change. -/
def Obligations.EndlessJumpChangesOnlyTheClock : Prop :=
  ∀ s : State, s.Ready → s.ime = false → s.imeNext = false → s.env = [] →
    s.peek s.pc = 0x18 → s.peek (s.pc + 1) = 0xFE →
    ∃ t, step s = .next t ∧ t.clock = s.clock + 12 ∧ { t with clock := s.clock, history := s.history } = s

/-! ## Rules about the whole machine -/

/-- R27: `clock` never goes back; if the parameters are multiples of 4, `clock mod 4` never changes. -/
def Obligations.ClockOnlyAdvances : Prop :=
  ∀ s t : State, step s = .next t →
    s.clock ≤ t.clock ∧
    (s.config.idleTick % 4 = 0 → s.config.undefTicks % 4 = 0 → s.config.intDispatchTicks % 4 = 0 →
      t.clock % 4 = s.clock % 4)

/-- R28 to R31, R39: which instructions change the run-control and interrupt-enable state, and that no instruction touches the
configuration, the breakpoints or the debug flags. -/
def Obligations.ControlStateWriters : Prop :=
  ∀ (i : Instr) (s t : State), exec i s = .next t →
    (i ≠ .halt → t.running = s.running) ∧ (i = .halt → t.running = false) ∧
    (i ≠ .stop → s.EnvIdle t.clock → t.stopped = s.stopped) ∧
    (i ≠ .di → i ≠ .ei → i ≠ .reti → t.imeNext = s.imeNext) ∧
    (i ≠ .di → i ≠ .reti → t.ime = s.ime) ∧
    t.config = s.config ∧ t.execBp = s.execBp ∧ t.trapped = s.trapped ∧ t.trapResolved = s.trapResolved ∧
    (s.EnvIdle t.clock → t.blocked = s.blocked)

/-- R24 (with `ACC_ROT_Z` for the Z column of the accumulator rotates, D12): the columns Z, N, H, C of the flag table; an
instruction it does not list leaves F alone, and one it lists leaves the low nibble zero. A prefixed pair counts as its
secondary instruction. -/
def Obligations.FlagTableObeyed : Prop :=
  ∀ (i j : Instr) (s t : State), resolvePrefix i = some j → exec i s = .next t →
    match flagTable s.config j with
    | none => t.f = s.f
    | some (z, n, h, c) => z.obeyed (flagZ s.f) (flagZ t.f) ∧ n.obeyed (flagN s.f) (flagN t.f) ∧
        h.obeyed (flagH s.f) (flagH t.f) ∧ c.obeyed (flagC s.f) (flagC t.f) ∧ t.f &&& 0x0F = 0

/-- R400: the clock cost of every instruction, and that it completes. -/
def Obligations.ClockTableObeyed : Prop :=
  ∀ (i j : Instr) (s : State), resolvePrefix i = some j →
    ∃ t, exec i s = .next t ∧ t.clock = s.clock + clockTable s.config j s.f

/-- R25: an instruction that does not transfer control leaves PC at the next instruction in memory; STOP's length is the parameter
`STOP_LENGTH`. R26: SP changes only by the instructions that the rule lists. -/
def Obligations.PcAndSpWriters : Prop :=
  ∀ (i j : Instr) (s t : State), resolvePrefix i = some j → exec i s = .next t →
    (transfers j s.f = false →
      t.pc = s.pc + BitVec.ofNat 16 (if j = .stop then s.config.stopLength else (encode j).length)) ∧
    (writesSp j = false → t.sp = s.sp)

/-- R66, R67: the events of an instruction begin with a tick; every bus access is followed at once by its own `Tick(4)`; and the
ticks add up to the clock's advance. -/
def Obligations.EveryAccessHasItsTick : Prop :=
  ∀ (i : Instr) (s t : State), exec i s = .next t →
    ∃ n evs, BusLog s t (.tick n :: evs) ∧ paced evs = true ∧ t.clock = s.clock + n + totalTicks evs

/-- R27: no instruction reads `clock`, and none reads the record of events (R11). With nothing in the environment's queue, a step from
another clock and after another record gives the same next state, shifted alike; the queue stays empty, so the next step does too. -/
def Obligations.ShiftedClockGivesShiftedStep : Prop :=
  ∀ (s t : State) (d : Nat) (past : List BusEvent), s.env = [] → step s = .next t →
    t.env = [] ∧
    step { s with clock := s.clock + d, history := s.history ++ past } =
      .next { t with clock := t.clock + d, history := t.history ++ past }

/-! ## Loads and stores (40_loads_stores.md) -/

/-- R131, R134: `LD r,r'` and `LD r,d8`. -/
def Obligations.LoadRegisterOrImmediate : Prop :=
  ∀ (s : State) (dst src : Reg8) (n : Byte),
    (∃ t, exec (.ldRR dst src) s = .next t ∧ OneCycle s t ∧ t.reg dst = s.reg src ∧ t.f = s.f ∧ t.sp = s.sp ∧
      Frame s t [dst] []) ∧
    (∃ t, exec (.ldRD8 dst n) s = .next t ∧ SecondByteCycle s t ∧ t.reg dst = n ∧ t.f = s.f ∧ t.sp = s.sp ∧
      Frame s t [dst] [])

/-- R132, R136, R137, R148: `LD r,(HL)`, `LD A,(BC)`, `LD A,(DE)` and `LD A,(C)` read one byte. -/
def Obligations.LoadThroughPointer : Prop :=
  ∀ (s : State) (dst : Reg8),
    (∃ v t, exec (.ldRHl dst) s = .next t ∧ ReadCycle s t s.hl v ∧ t.reg dst = v ∧ t.f = s.f ∧ t.sp = s.sp ∧
      Frame s t [dst] []) ∧
    (∃ v t, exec .ldABc s = .next t ∧ ReadCycle s t s.bc v ∧ t.a = v ∧ t.f = s.f ∧ t.sp = s.sp ∧ Frame s t [.a] []) ∧
    (∃ v t, exec .ldADe s = .next t ∧ ReadCycle s t s.de v ∧ t.a = v ∧ t.f = s.f ∧ t.sp = s.sp ∧ Frame s t [.a] []) ∧
    (∃ v t, exec .ldAC s = .next t ∧ ReadCycle s t (s.config.highPage + s.c.setWidth 16) v ∧ t.a = v ∧ t.f = s.f ∧
      t.sp = s.sp ∧ Frame s t [.a] [])

/-- R133, R138, R139, R149: `LD (HL),r`, `LD (BC),A`, `LD (DE),A` and `LD (C),A` write one byte. -/
def Obligations.StoreThroughPointer : Prop :=
  ∀ (s : State) (q : Reg8),
    (∃ t, exec (.ldHlR q) s = .next t ∧ WriteCycle s t s.hl (s.reg q) ∧ t.f = s.f ∧ t.sp = s.sp ∧ Frame s t [] [s.hl]) ∧
    (∃ t, exec .ldBcA s = .next t ∧ WriteCycle s t s.bc s.a ∧ t.f = s.f ∧ t.sp = s.sp ∧ Frame s t [] [s.bc]) ∧
    (∃ t, exec .ldDeA s = .next t ∧ WriteCycle s t s.de s.a ∧ t.f = s.f ∧ t.sp = s.sp ∧ Frame s t [] [s.de]) ∧
    (∃ t, exec .ldCA s = .next t ∧ WriteCycle s t (s.config.highPage + s.c.setWidth 16) s.a ∧ t.f = s.f ∧
      t.sp = s.sp ∧ Frame s t [] [s.config.highPage + s.c.setWidth 16])

/-- R140 to R143: the loads and stores through HL with increment and decrement; the pointer moves after the access. -/
def Obligations.PointerIncrementAndDecrement : Prop :=
  ∀ s : State,
    (∃ v t, exec .ldAHli s = .next t ∧ ReadCycle s t s.hl v ∧ t.a = v ∧ t.hl = s.hl + 1 ∧ t.f = s.f ∧ t.sp = s.sp ∧
      Frame s t [.a, .h, .l] []) ∧
    (∃ v t, exec .ldAHld s = .next t ∧ ReadCycle s t s.hl v ∧ t.a = v ∧ t.hl = s.hl - 1 ∧ t.f = s.f ∧ t.sp = s.sp ∧
      Frame s t [.a, .h, .l] []) ∧
    (∃ t, exec .ldHliA s = .next t ∧ WriteCycle s t s.hl s.a ∧ t.hl = s.hl + 1 ∧ t.f = s.f ∧ t.sp = s.sp ∧
      Frame s t [.h, .l] [s.hl]) ∧
    (∃ t, exec .ldHldA s = .next t ∧ WriteCycle s t s.hl s.a ∧ t.hl = s.hl - 1 ∧ t.f = s.f ∧ t.sp = s.sp ∧
      Frame s t [.h, .l] [s.hl])

/-- R144, R146: `LD A,(a16)` and `LDH A,(a8)`. -/
def Obligations.LoadAbsoluteAndHighPage : Prop :=
  ∀ (s : State) (a : Word) (n : Byte),
    (∃ x y v t, exec (.ldAA16 a) s = .next t ∧ ReadsBothBytes s x y ∧ t.a = v ∧ t.pc = s.pc + 3 ∧ t.clock = s.clock + 16 ∧
      BusLog s t [.tick 4, .read (s.pc + 1) x, .tick 4, .read (s.pc + 2) y, .tick 4, .read a v, .tick 4] ∧
      s.Holds (s.clock + 12) a v ∧ t.f = s.f ∧ t.sp = s.sp ∧ Frame s t [.a] []) ∧
    (∃ x v t, exec (.ldhAA8 n) s = .next t ∧ ReadsSecondByte s x ∧ t.a = v ∧ t.pc = s.pc + 2 ∧ t.clock = s.clock + 12 ∧
      BusLog s t [.tick 4, .read (s.pc + 1) x, .tick 4, .read (s.config.highPage + n.setWidth 16) v, .tick 4] ∧
      s.Holds (s.clock + 8) (s.config.highPage + n.setWidth 16) v ∧ t.f = s.f ∧ t.sp = s.sp ∧ Frame s t [.a] [])

/-- R135, R145, R147: `LD (HL),d8`, `LD (a16),A` and `LDH (a8),A`. -/
def Obligations.StoreImmediateAbsoluteAndHighPage : Prop :=
  ∀ (s : State) (a : Word) (n : Byte),
    (∃ x t, exec (.ldHlD8 n) s = .next t ∧ ReadsSecondByte s x ∧ t.pc = s.pc + 2 ∧ t.clock = s.clock + 12 ∧
      BusLog s t [.tick 4, .read (s.pc + 1) x, .tick 4, .write s.hl n, .tick 4] ∧ Stores s t s.hl n ∧
      t.f = s.f ∧ t.sp = s.sp ∧ Frame s t [] [s.hl]) ∧
    (∃ x y t, exec (.ldA16A a) s = .next t ∧ ReadsBothBytes s x y ∧ t.pc = s.pc + 3 ∧ t.clock = s.clock + 16 ∧
      BusLog s t [.tick 4, .read (s.pc + 1) x, .tick 4, .read (s.pc + 2) y, .tick 4, .write a s.a, .tick 4] ∧
      Stores s t a s.a ∧ t.f = s.f ∧ t.sp = s.sp ∧ Frame s t [] [a]) ∧
    (∃ x t, exec (.ldhA8A n) s = .next t ∧ ReadsSecondByte s x ∧ t.pc = s.pc + 2 ∧ t.clock = s.clock + 12 ∧
      BusLog s t [.tick 4, .read (s.pc + 1) x, .tick 4, .write (s.config.highPage + n.setWidth 16) s.a, .tick 4] ∧
      Stores s t (s.config.highPage + n.setWidth 16) s.a ∧ t.f = s.f ∧ t.sp = s.sp ∧
      Frame s t [] [s.config.highPage + n.setWidth 16])

/-- R150, R152: `LD rr,d16`, the pair written high register and low register, or SP; and `LD SP,HL`. -/
def Obligations.LoadWord : Prop :=
  ∀ (s : State) (p : Pair16) (v : Word),
    (∃ x y t, exec (.ldRrD16 p v) s = .next t ∧ t.pair16 p = v ∧ (p ≠ .sp → t.sp = s.sp) ∧
      t.pc = s.pc + 3 ∧ t.clock = s.clock + 12 ∧
      BusLog s t [.tick 4, .read (s.pc + 1) x, .tick 4, .read (s.pc + 2) y, .tick 4] ∧
      ReadsBothBytes s x y ∧ t.f = s.f ∧ Frame s t (pairRegs p) []) ∧
    (∃ t, exec .ldSpHl s = .next t ∧ InternalCycle s t ∧ t.sp = s.hl ∧ t.f = s.f ∧ Frame s t [] [])

/-- R151: `LD (a16),SP` stores the low byte of SP at a, then the high byte at a + 1, wrapping at the top of memory. -/
def Obligations.StoreStackPointer : Prop :=
  ∀ (s : State) (a : Word),
    ∃ x y t, exec (.ldA16Sp a) s = .next t ∧ ReadsBothBytes s x y ∧ t.pc = s.pc + 3 ∧ t.clock = s.clock + 20 ∧
      BusLog s t [.tick 4, .read (s.pc + 1) x, .tick 4, .read (s.pc + 2) y, .tick 4, .write a (loByte s.sp), .tick 4,
        .write (a + 1) (hiByte s.sp), .tick 4] ∧
      Stores s t a (loByte s.sp) ∧ Stores s t (a + 1) (hiByte s.sp) ∧
      t.f = s.f ∧ t.sp = s.sp ∧ Frame s t [] [a, a + 1]

/-- R153, R307: `LD HL,SP+e8` and `ADD SP,e8`: a signed displacement, flags from the unsigned low bytes. -/
def Obligations.StackPointerPlusDisplacement : Prop :=
  ∀ (s : State) (e : Byte),
    (∃ x t, exec (.ldHlSpE8 e) s = .next t ∧ ReadsSecondByte s x ∧ t.hl = s.sp + BitVec.ofInt 16 e.toInt ∧
      FlagsAre t false false (15 < s.sp.toNat % 16 + e.toNat % 16) (255 < s.sp.toNat % 256 + e.toNat) ∧
      t.pc = s.pc + 2 ∧ t.clock = s.clock + 12 ∧ BusLog s t [.tick 4, .read (s.pc + 1) x, .tick 4, .tick 4] ∧
      t.sp = s.sp ∧ Frame s t [.h, .l] []) ∧
    (∃ x t, exec (.addSpE8 e) s = .next t ∧ ReadsSecondByte s x ∧ t.sp = s.sp + BitVec.ofInt 16 e.toInt ∧
      FlagsAre t false false (15 < s.sp.toNat % 16 + e.toNat % 16) (255 < s.sp.toNat % 256 + e.toNat) ∧
      t.pc = s.pc + 2 ∧ t.clock = s.clock + 16 ∧ BusLog s t [.tick 4, .read (s.pc + 1) x, .tick 4, .tick 4, .tick 4] ∧
      Frame s t [] [])

/-! ## 8-bit arithmetic and logic (41_alu8.md) -/

/-- The three operand forms of an accumulator operation complete, with effect `E` of the operand: a register, the byte at HL, an
immediate. -/
def AluForms (reg : Reg8 → Instr) (mem : Instr) (imm : Byte → Instr) (E : State → State → Byte → Prop) : Prop :=
  ∀ s : State,
    (∀ r, ∃ t, exec (reg r) s = .next t ∧ OneCycle s t ∧ E s t (s.reg r)) ∧
    (∃ v t, exec mem s = .next t ∧ ReadCycle s t s.hl v ∧ E s t v) ∧
    (∀ n, ∃ t, exec (imm n) s = .next t ∧ SecondByteCycle s t ∧ E s t n)

/-- R171 to R174: `ADD`. -/
def Obligations.AddToAccumulator : Prop :=
  AluForms .addAR .addAHl .addAD8 fun s t v =>
    t.a.toNat = (s.a.toNat + v.toNat) % 256 ∧
    FlagsAre t (t.a = 0) false (15 < s.a.toNat % 16 + v.toNat % 16) (255 < s.a.toNat + v.toNat) ∧
    t.sp = s.sp ∧ Frame s t [.a] []

/-- R171, R175 to R177: `ADC`. -/
def Obligations.AddWithCarry : Prop :=
  AluForms .adcAR .adcAHl .adcAD8 fun s t v =>
    t.a.toNat = (s.a.toNat + v.toNat + b2i (flagC s.f)) % 256 ∧
    FlagsAre t (t.a = 0) false (15 < s.a.toNat % 16 + v.toNat % 16 + b2i (flagC s.f))
      (255 < s.a.toNat + v.toNat + b2i (flagC s.f)) ∧
    t.sp = s.sp ∧ Frame s t [.a] []

/-- R171, R178 to R180: `SUB`. -/
def Obligations.Subtract : Prop :=
  AluForms .subR .subHl .subD8 fun s t v =>
    (t.a.toNat : Int) = ((s.a.toNat : Int) - v.toNat) % 256 ∧
    FlagsAre t (t.a = 0) true (s.a.toNat % 16 < v.toNat % 16) (s.a.toNat < v.toNat) ∧
    t.sp = s.sp ∧ Frame s t [.a] []

/-- R171, R181 to R183: `SBC`; the comparisons are on unbounded integers. -/
def Obligations.SubtractWithCarry : Prop :=
  AluForms .sbcAR .sbcAHl .sbcAD8 fun s t v =>
    (t.a.toNat : Int) = ((s.a.toNat : Int) - v.toNat - b2i (flagC s.f)) % 256 ∧
    FlagsAre t (t.a = 0) true (s.a.toNat % 16 < v.toNat % 16 + b2i (flagC s.f))
      (s.a.toNat < v.toNat + b2i (flagC s.f)) ∧
    t.sp = s.sp ∧ Frame s t [.a] []

/-- R171, R184 to R192: `AND`, `XOR` and `OR`. -/
def Obligations.BitwiseLogic : Prop :=
  (AluForms .andR .andHl .andD8 fun s t v =>
    t.a = s.a &&& v ∧ FlagsAre t (t.a = 0) false true false ∧ t.sp = s.sp ∧ Frame s t [.a] []) ∧
  (AluForms .xorR .xorHl .xorD8 fun s t v =>
    t.a = s.a ^^^ v ∧ FlagsAre t (t.a = 0) false false false ∧ t.sp = s.sp ∧ Frame s t [.a] []) ∧
  (AluForms .orR .orHl .orD8 fun s t v =>
    t.a = s.a ||| v ∧ FlagsAre t (t.a = 0) false false false ∧ t.sp = s.sp ∧ Frame s t [.a] [])

/-- R171, R193 to R195: `CP`, the flags of a subtraction; A is not written. -/
def Obligations.CompareWritesOnlyFlags : Prop :=
  AluForms .cpR .cpHl .cpD8 fun s t v =>
    FlagsAre t (s.a = v) true (s.a.toNat % 16 < v.toNat % 16) (s.a.toNat < v.toNat) ∧
    t.sp = s.sp ∧ Frame s t [] []

/-- R196, R198: `INC r` and `DEC r`; C keeps its value. -/
def Obligations.IncrementRegister : Prop :=
  ∀ (s : State) (r : Reg8),
    (∃ t, exec (.incR r) s = .next t ∧ OneCycle s t ∧ (t.reg r).toNat = ((s.reg r).toNat + 1) % 256 ∧
      FlagsAre t (t.reg r = 0) false ((s.reg r).toNat % 16 = 15) (flagC s.f) ∧ t.sp = s.sp ∧ Frame s t [r] []) ∧
    (∃ t, exec (.decR r) s = .next t ∧ OneCycle s t ∧ ((t.reg r).toNat : Int) = (((s.reg r).toNat : Int) - 1) % 256 ∧
      FlagsAre t (t.reg r = 0) true ((s.reg r).toNat % 16 = 0) (flagC s.f) ∧ t.sp = s.sp ∧ Frame s t [r] [])

/-- R197, R199: `INC (HL)` and `DEC (HL)`: one read, then one write of the byte after it. -/
def Obligations.IncrementMemory : Prop :=
  ∀ s : State,
    (∃ x v t, exec .incHl s = .next t ∧ v.toNat = (x.toNat + 1) % 256 ∧
      FlagsAre t (v = 0) false (x.toNat % 16 = 15) (flagC s.f) ∧ t.pc = s.pc + 1 ∧ t.clock = s.clock + 12 ∧
      BusLog s t [.tick 4, .read s.hl x, .tick 4, .write s.hl v, .tick 4] ∧ s.Holds (s.clock + 4) s.hl x ∧
      Stores s t s.hl v ∧ t.sp = s.sp ∧ Frame s t [] [s.hl]) ∧
    (∃ x v t, exec .decHl s = .next t ∧ (v.toNat : Int) = ((x.toNat : Int) - 1) % 256 ∧
      FlagsAre t (v = 0) true (x.toNat % 16 = 0) (flagC s.f) ∧ t.pc = s.pc + 1 ∧ t.clock = s.clock + 12 ∧
      BusLog s t [.tick 4, .read s.hl x, .tick 4, .write s.hl v, .tick 4] ∧ s.Holds (s.clock + 4) s.hl x ∧
      Stores s t s.hl v ∧ t.sp = s.sp ∧ Frame s t [] [s.hl])

/-- R200: `DAA`. After an addition the corrections 0x60 and 0x06 are added, after a subtraction they are taken off; the tests use
the original A and F. -/
def Obligations.DecimalAdjust : Prop :=
  ∀ s : State, ∃ t, exec .daa s = .next t ∧ OneCycle s t ∧ t.sp = s.sp ∧ Frame s t [.a] [] ∧
    (flagN s.f = false →
      t.a.toNat = (s.a.toNat + (if flagC s.f = true ∨ 0x99 < s.a.toNat then 0x60 else 0) +
        (if flagH s.f = true ∨ 9 < s.a.toNat % 16 then 0x06 else 0)) % 256 ∧
      FlagsAre t (t.a = 0) false false (flagC s.f = true ∨ 0x99 < s.a.toNat)) ∧
    (flagN s.f = true →
      (t.a.toNat : Int) = ((s.a.toNat : Int) - (if flagC s.f = true then 0x60 else 0) -
        (if flagH s.f = true then 0x06 else 0)) % 256 ∧
      FlagsAre t (t.a = 0) true false (flagC s.f))

/-- R201 to R203: `CPL`, `SCF` and `CCF`. -/
def Obligations.ComplementAndCarryFlag : Prop :=
  ∀ s : State,
    (∃ t, exec .cpl s = .next t ∧ OneCycle s t ∧ t.a = s.a ^^^ 0xFF ∧ FlagsAre t (flagZ s.f) true true (flagC s.f) ∧
      t.sp = s.sp ∧ Frame s t [.a] []) ∧
    (∃ t, exec .scf s = .next t ∧ OneCycle s t ∧ FlagsAre t (flagZ s.f) false false true ∧ t.sp = s.sp ∧ Frame s t [] []) ∧
    (∃ t, exec .ccf s = .next t ∧ OneCycle s t ∧ FlagsAre t (flagZ s.f) false false (!flagC s.f) ∧ t.sp = s.sp ∧
      Frame s t [] [])

/-- R204 to R207: `RLCA`, `RRCA`, `RLA` and `RRA`; Z is `ACC_ROT_Z`. -/
def Obligations.AccumulatorRotates : Prop :=
  ∀ s : State,
    (∃ t, exec .rlca s = .next t ∧ OneCycle s t ∧ t.a.toNat = s.a.toNat * 2 % 256 + s.a.toNat / 128 ∧
      FlagsAre t s.config.accRotZ false false (s.a.getLsbD 7) ∧ t.sp = s.sp ∧ Frame s t [.a] []) ∧
    (∃ t, exec .rrca s = .next t ∧ OneCycle s t ∧ t.a.toNat = s.a.toNat / 2 + 128 * (s.a.toNat % 2) ∧
      FlagsAre t s.config.accRotZ false false (s.a.getLsbD 0) ∧ t.sp = s.sp ∧ Frame s t [.a] []) ∧
    (∃ t, exec .rla s = .next t ∧ OneCycle s t ∧ t.a.toNat = s.a.toNat * 2 % 256 + b2i (flagC s.f) ∧
      FlagsAre t s.config.accRotZ false false (s.a.getLsbD 7) ∧ t.sp = s.sp ∧ Frame s t [.a] []) ∧
    (∃ t, exec .rra s = .next t ∧ OneCycle s t ∧ t.a.toNat = s.a.toNat / 2 + 128 * b2i (flagC s.f) ∧
      FlagsAre t s.config.accRotZ false false (s.a.getLsbD 0) ∧ t.sp = s.sp ∧ Frame s t [.a] [])

/-! ## The prefixed instructions (42_cb_prefixed.md) -/

/-- A prefixed shift completes in its two forms with result `op` (a number, of the operand and the old carry) and the bit moved
out `out`: on a register, and on the byte at HL, which is read and then written. -/
def ShiftForms (reg : Reg8 → Instr) (mem : Instr) (op : Nat → Nat → Nat) (out : Byte → Bool) : Prop :=
  ∀ s : State,
    (∀ r, ∃ t, exec (reg r) s = .next t ∧ SecondByteCycle s t ∧ (t.reg r).toNat = op (s.reg r).toNat (b2i (flagC s.f)) ∧
      FlagsAre t (t.reg r = 0) false false (out (s.reg r)) ∧ t.sp = s.sp ∧ Frame s t [r] []) ∧
    (∃ w x v t, exec mem s = .next t ∧ ReadsSecondByte s w ∧ v.toNat = op x.toNat (b2i (flagC s.f)) ∧
      FlagsAre t (v = 0) false false (out x) ∧ t.pc = s.pc + 2 ∧ t.clock = s.clock + 16 ∧
      BusLog s t [.tick 4, .read (s.pc + 1) w, .tick 4, .read s.hl x, .tick 4, .write s.hl v, .tick 4] ∧
      s.Holds (s.clock + 8) s.hl x ∧ Stores s t s.hl v ∧ t.sp = s.sp ∧ Frame s t [] [s.hl])

/-- R230 to R238: `RLC`, `RRC`, `RL` and `RR`. -/
def Obligations.PrefixedRotates : Prop :=
  ShiftForms .rlcR .rlcHl (fun x _ => x * 2 % 256 + x / 128) (fun x => x.getLsbD 7) ∧
  ShiftForms .rrcR .rrcHl (fun x _ => x / 2 + 128 * (x % 2)) (fun x => x.getLsbD 0) ∧
  ShiftForms .rlR .rlHl (fun x c => x * 2 % 256 + c) (fun x => x.getLsbD 7) ∧
  ShiftForms .rrR .rrHl (fun x c => x / 2 + 128 * c) (fun x => x.getLsbD 0)

/-- R230, R239 to R246: `SLA`, `SRA`, `SWAP` and `SRL`. -/
def Obligations.PrefixedShifts : Prop :=
  ShiftForms .slaR .slaHl (fun x _ => x * 2 % 256) (fun x => x.getLsbD 7) ∧
  ShiftForms .sraR .sraHl (fun x _ => x / 2 + 128 * (x / 128)) (fun x => x.getLsbD 0) ∧
  ShiftForms .swapR .swapHl (fun x _ => x % 16 * 16 + x / 16) (fun _ => false) ∧
  ShiftForms .srlR .srlHl (fun x _ => x / 2) (fun x => x.getLsbD 0)

/-- R247, R248: `BIT b,r` and `BIT b,(HL)`: Z is the complement of the bit, C is kept, nothing else is written. -/
def Obligations.BitTest : Prop :=
  ∀ (s : State) (n : BitVec 3) (r : Reg8),
    (∃ t, exec (.bitBR n r) s = .next t ∧ SecondByteCycle s t ∧
      FlagsAre t (!(s.reg r).getLsbD n.toNat) false true (flagC s.f) ∧ t.sp = s.sp ∧ Frame s t [] []) ∧
    (∃ w x t, exec (.bitBHl n) s = .next t ∧ ReadsSecondByte s w ∧ FlagsAre t (!x.getLsbD n.toNat) false true (flagC s.f) ∧
      t.pc = s.pc + 2 ∧ t.clock = s.clock + 12 ∧
      BusLog s t [.tick 4, .read (s.pc + 1) w, .tick 4, .read s.hl x, .tick 4] ∧ s.Holds (s.clock + 8) s.hl x ∧
      t.sp = s.sp ∧ Frame s t [] [])

/-- R249 to R252: `RES` and `SET` change one bit and no flag; the memory forms always write the byte back. -/
def Obligations.BitResetAndSet : Prop :=
  ∀ (s : State) (n : BitVec 3) (r : Reg8),
    (∃ t, exec (.resBR n r) s = .next t ∧ SecondByteCycle s t ∧
      (∀ k, k < 8 → (t.reg r).getLsbD k = (decide (k ≠ n.toNat) && (s.reg r).getLsbD k)) ∧
      t.f = s.f ∧ t.sp = s.sp ∧ Frame s t [r] []) ∧
    (∃ t, exec (.setBR n r) s = .next t ∧ SecondByteCycle s t ∧
      (∀ k, k < 8 → (t.reg r).getLsbD k = (decide (k = n.toNat) || (s.reg r).getLsbD k)) ∧
      t.f = s.f ∧ t.sp = s.sp ∧ Frame s t [r] []) ∧
    (∃ w x v t, exec (.resBHl n) s = .next t ∧ ReadsSecondByte s w ∧
      (∀ k, k < 8 → v.getLsbD k = (decide (k ≠ n.toNat) && x.getLsbD k)) ∧
      t.pc = s.pc + 2 ∧ t.clock = s.clock + 16 ∧
      BusLog s t [.tick 4, .read (s.pc + 1) w, .tick 4, .read s.hl x, .tick 4, .write s.hl v, .tick 4] ∧
      s.Holds (s.clock + 8) s.hl x ∧ Stores s t s.hl v ∧ t.f = s.f ∧ t.sp = s.sp ∧ Frame s t [] [s.hl]) ∧
    (∃ w x v t, exec (.setBHl n) s = .next t ∧ ReadsSecondByte s w ∧
      (∀ k, k < 8 → v.getLsbD k = (decide (k = n.toNat) || x.getLsbD k)) ∧
      t.pc = s.pc + 2 ∧ t.clock = s.clock + 16 ∧
      BusLog s t [.tick 4, .read (s.pc + 1) w, .tick 4, .read s.hl x, .tick 4, .write s.hl v, .tick 4] ∧
      s.Holds (s.clock + 8) s.hl x ∧ Stores s t s.hl v ∧ t.f = s.f ∧ t.sp = s.sp ∧ Frame s t [] [s.hl])

/-- R313, R100: the primary-table entry of 0xCB completes, and performs the secondary-table entry of the byte after it. -/
def Obligations.PrefixPerformsTheSecondaryEntry : Prop :=
  ∀ (s : State) (op2 : Byte), ∃ i t, secondaryEntry op2 = some i ∧ i.wellFormed = true ∧
    exec (.prefixCb op2) s = .next t ∧ exec i s = .next t ∧ t.pc = s.pc + 2

/-! ## Control transfer (43_control_transfer.md) -/

/-- R271, R273, R274: `JP a16`, `JP HL` and `JR e8`. -/
def Obligations.UnconditionalJumps : Prop :=
  ∀ (s : State) (a : Word) (e : Byte),
    (∃ x y t, exec (.jpA16 a) s = .next t ∧ ReadsBothBytes s x y ∧ t.pc = a ∧ t.clock = s.clock + 16 ∧
      BusLog s t [.tick 4, .read (s.pc + 1) x, .tick 4, .read (s.pc + 2) y, .tick 4, .tick 4] ∧
      t.f = s.f ∧ t.sp = s.sp ∧ Frame s t [] []) ∧
    (∃ t, exec .jpHl s = .next t ∧ t.pc = s.hl ∧ t.clock = s.clock + 4 ∧ BusLog s t [.tick 4] ∧
      t.f = s.f ∧ t.sp = s.sp ∧ Frame s t [] []) ∧
    (∃ x t, exec (.jrE8 e) s = .next t ∧ ReadsSecondByte s x ∧
      t.pc = s.pc + 2 + BitVec.ofInt 16 e.toInt ∧ t.clock = s.clock + 12 ∧
      BusLog s t [.tick 4, .read (s.pc + 1) x, .tick 4, .tick 4] ∧ t.f = s.f ∧ t.sp = s.sp ∧ Frame s t [] [])

/-- R38: what a condition tests. -/
def CondSays (cc : Cond) (s : State) : Prop :=
  match cc with
  | .nz => flagZ s.f = false
  | .z => flagZ s.f = true
  | .nc => flagC s.f = false
  | .c => flagC s.f = true

/-- R272, R275: `JP cc,a16` and `JR cc,e8`, taken and not taken; the operand bytes are read either way. -/
def Obligations.ConditionalJumps : Prop :=
  ∀ (s : State) (cc : Cond) (a : Word) (e : Byte),
    (∃ x y t, exec (.jpCcA16 cc a) s = .next t ∧ ReadsBothBytes s x y ∧ t.f = s.f ∧ t.sp = s.sp ∧ Frame s t [] [] ∧
      (CondSays cc s → t.pc = a ∧ t.clock = s.clock + 16 ∧
        BusLog s t [.tick 4, .read (s.pc + 1) x, .tick 4, .read (s.pc + 2) y, .tick 4, .tick 4]) ∧
      (¬ CondSays cc s → t.pc = s.pc + 3 ∧ t.clock = s.clock + 12 ∧
        BusLog s t [.tick 4, .read (s.pc + 1) x, .tick 4, .read (s.pc + 2) y, .tick 4])) ∧
    (∃ x t, exec (.jrCcE8 cc e) s = .next t ∧ ReadsSecondByte s x ∧ t.f = s.f ∧ t.sp = s.sp ∧ Frame s t [] [] ∧
      (CondSays cc s → t.pc = s.pc + 2 + BitVec.ofInt 16 e.toInt ∧ t.clock = s.clock + 12 ∧
        BusLog s t [.tick 4, .read (s.pc + 1) x, .tick 4, .tick 4]) ∧
      (¬ CondSays cc s → t.pc = s.pc + 2 ∧ t.clock = s.clock + 8 ∧
        BusLog s t [.tick 4, .read (s.pc + 1) x, .tick 4]))

/-- `v` has been pushed: SP is 2 lower, the high byte stands at SP - 1 and the low byte at SP - 2 of the SP before (R9, R26). -/
def Pushed (s t : State) (v : Word) : Prop :=
  t.sp = s.sp - 2 ∧ Stores s t (s.sp - 1) (hiByte v) ∧ Stores s t (s.sp - 2) (loByte v)

/-- The events of a push. -/
def pushEvents (s : State) (v : Word) : List BusEvent :=
  [.write (s.sp - 1) (hiByte v), .tick 4, .write (s.sp - 2) (loByte v), .tick 4]

/-- R276, R277, R281: `CALL a16`, `CALL cc,a16` and `RST t`. The return address is that of the next instruction; a call not taken
leaves the stack alone. -/
def Obligations.CallsAndRestarts : Prop :=
  ∀ (s : State) (cc : Cond) (a : Word) (n : BitVec 3),
    (∃ x y t, exec (.callA16 a) s = .next t ∧ ReadsBothBytes s x y ∧ t.pc = a ∧ Pushed s t (s.pc + 3) ∧ t.clock = s.clock + 24 ∧
      BusLog s t (.tick 4 :: .read (s.pc + 1) x :: .tick 4 :: .read (s.pc + 2) y :: .tick 4 :: .tick 4 ::
        pushEvents s (s.pc + 3)) ∧
      t.f = s.f ∧ Frame s t [] [s.sp - 1, s.sp - 2]) ∧
    (∃ x y t, exec (.callCcA16 cc a) s = .next t ∧ ReadsBothBytes s x y ∧ t.f = s.f ∧
      (CondSays cc s → t.pc = a ∧ Pushed s t (s.pc + 3) ∧ t.clock = s.clock + 24 ∧
        BusLog s t (.tick 4 :: .read (s.pc + 1) x :: .tick 4 :: .read (s.pc + 2) y :: .tick 4 :: .tick 4 ::
          pushEvents s (s.pc + 3)) ∧ Frame s t [] [s.sp - 1, s.sp - 2]) ∧
      (¬ CondSays cc s → t.pc = s.pc + 3 ∧ t.sp = s.sp ∧ t.clock = s.clock + 12 ∧
        BusLog s t [.tick 4, .read (s.pc + 1) x, .tick 4, .read (s.pc + 2) y, .tick 4] ∧ Frame s t [] [])) ∧
    (∃ t, exec (.rst n) s = .next t ∧ t.pc.toNat = 8 * n.toNat ∧ Pushed s t (s.pc + 1) ∧ t.clock = s.clock + 16 ∧
      BusLog s t (.tick 4 :: .tick 4 :: pushEvents s (s.pc + 1)) ∧ t.f = s.f ∧ Frame s t [] [s.sp - 1, s.sp - 2])

/-- The bytes `x` at SP and `y` at SP + 1 have been read, the first when `clock` has advanced by `n`, and SP is 2 higher (R9, R26). -/
def Popped (s t : State) (n : Nat) (x y : Byte) : Prop :=
  t.sp = s.sp + 2 ∧ s.Holds (s.clock + n) s.sp x ∧ s.Holds (s.clock + n + 4) (s.sp + 1) y

/-- The events of a pop, and the events after it. -/
def popEvents (s : State) (x y : Byte) (after : List BusEvent) : List BusEvent :=
  .read s.sp x :: .tick 4 :: .read (s.sp + 1) y :: .tick 4 :: after

/-- R278 to R280: `RET`, `RET cc` and `RETI`; RETI sets IME_next, and IME when `RETI_IMMEDIATE`, and restores nothing else. -/
def Obligations.Returns : Prop :=
  ∀ (s : State) (cc : Cond),
    (∃ x y t, exec .ret s = .next t ∧ t.pc = mkWord y x ∧ Popped s t 4 x y ∧ t.clock = s.clock + 16 ∧
      BusLog s t (.tick 4 :: popEvents s x y [.tick 4]) ∧ t.f = s.f ∧ Frame s t [] []) ∧
    (∃ x y t, exec (.retCc cc) s = .next t ∧ t.f = s.f ∧ Frame s t [] [] ∧
      (CondSays cc s → t.pc = mkWord y x ∧ Popped s t 8 x y ∧ t.clock = s.clock + 20 ∧
        BusLog s t (.tick 4 :: .tick 4 :: popEvents s x y [.tick 4])) ∧
      (¬ CondSays cc s → t.pc = s.pc + 1 ∧ t.sp = s.sp ∧ t.clock = s.clock + 8 ∧ BusLog s t [.tick 4, .tick 4])) ∧
    (∃ x y t, exec .reti s = .next t ∧ t.pc = mkWord y x ∧ Popped s t 4 x y ∧ t.clock = s.clock + 16 ∧
      BusLog s t (.tick 4 :: popEvents s x y [.tick 4]) ∧ t.imeNext = true ∧
      t.ime = (s.config.retiImmediate || s.ime) ∧ t.f = s.f ∧ t.running = s.running ∧ KeepsDebug s t ∧
      KeepsRegs s t [] ∧ KeepsHolds s t ∧ KeepsMemory s t [])

/-! ## Stack, 16-bit arithmetic, CPU control (44_misc_control.md) -/

/-- R301 and R312: `NOP`, and the eleven undefined opcodes, which skip one byte at the cost `UNDEF_TICKS`; nothing else
changes, and the bytes that follow are not consumed. -/
def Obligations.NopAndUndefinedOpcodes : Prop :=
  ∀ s : State,
    (encode .nop = [0x00] ∧
      ∃ t, exec .nop s = .next t ∧ OneCycle s t ∧ t.f = s.f ∧ t.sp = s.sp ∧ Frame s t [] []) ∧
    ∀ (i : Instr) (op : Byte), (i, op) ∈ [(Instr.undefD3, (0xD3 : Byte)), (.undefDB, 0xDB), (.undefDD, 0xDD), (.undefE3, 0xE3),
      (.undefE4, 0xE4), (.undefEB, 0xEB), (.undefEC, 0xEC), (.undefED, 0xED), (.undefF4, 0xF4), (.undefFC, 0xFC),
      (.undefFD, 0xFD)] →
      encode i = [op] ∧ (∀ rest, decode (op :: rest) = .ok (i, rest)) ∧
      ∃ t, exec i s = .next t ∧ t.pc = s.pc + 1 ∧ t.clock = s.clock + s.config.undefTicks ∧
        BusLog s t [.tick s.config.undefTicks] ∧ t.f = s.f ∧ t.sp = s.sp ∧ Frame s t [] []

/-- R302, R303, R314: `PUSH rr`, `POP rr` and `POP AF`. The high register goes to SP - 1 first; POP AF masks the low nibble of F. -/
def Obligations.PushAndPop : Prop :=
  ∀ (s : State) (p : PairStk),
    (∃ t, exec (.pushRr p) s = .next t ∧ Pushed s t (s.pairStk p) ∧ t.pc = s.pc + 1 ∧ t.clock = s.clock + 16 ∧
      BusLog s t (.tick 4 :: .tick 4 :: pushEvents s (s.pairStk p)) ∧ t.f = s.f ∧ Frame s t [] [s.sp - 1, s.sp - 2]) ∧
    (∃ x y t, exec (.popRr .bc) s = .next t ∧ t.c = x ∧ t.b = y ∧ Popped s t 4 x y ∧ t.pc = s.pc + 1 ∧
      t.clock = s.clock + 12 ∧ BusLog s t (.tick 4 :: popEvents s x y []) ∧ t.f = s.f ∧ Frame s t [.b, .c] []) ∧
    (∃ x y t, exec (.popRr .de) s = .next t ∧ t.e = x ∧ t.d = y ∧ Popped s t 4 x y ∧ t.pc = s.pc + 1 ∧
      t.clock = s.clock + 12 ∧ BusLog s t (.tick 4 :: popEvents s x y []) ∧ t.f = s.f ∧ Frame s t [.d, .e] []) ∧
    (∃ x y t, exec (.popRr .hl) s = .next t ∧ t.l = x ∧ t.h = y ∧ Popped s t 4 x y ∧ t.pc = s.pc + 1 ∧
      t.clock = s.clock + 12 ∧ BusLog s t (.tick 4 :: popEvents s x y []) ∧ t.f = s.f ∧ Frame s t [.h, .l] []) ∧
    (∃ x y t, exec .popAf s = .next t ∧ t.f = x &&& 0xF0 ∧ t.a = y ∧ Popped s t 4 x y ∧ t.pc = s.pc + 1 ∧
      t.clock = s.clock + 12 ∧ BusLog s t (.tick 4 :: popEvents s x y []) ∧ Frame s t [.a] [])

/-- R304 to R306: `ADD HL,rr`, `INC rr` and `DEC rr`. -/
def Obligations.WordArithmetic : Prop :=
  ∀ (s : State) (p : Pair16),
    (∃ t, exec (.addHlRr p) s = .next t ∧ InternalCycle s t ∧
      t.hl.toNat = (s.hl.toNat + (s.pair16 p).toNat) % 65536 ∧
      FlagsAre t (flagZ s.f) false (4095 < s.hl.toNat % 4096 + (s.pair16 p).toNat % 4096)
        (65535 < s.hl.toNat + (s.pair16 p).toNat) ∧
      t.sp = s.sp ∧ Frame s t [.h, .l] []) ∧
    (∃ t, exec (.incRr p) s = .next t ∧ InternalCycle s t ∧ (t.pair16 p).toNat = ((s.pair16 p).toNat + 1) % 65536 ∧
      (p ≠ .sp → t.sp = s.sp) ∧ t.f = s.f ∧ Frame s t (pairRegs p) []) ∧
    (∃ t, exec (.decRr p) s = .next t ∧ InternalCycle s t ∧
      ((t.pair16 p).toNat : Int) = (((s.pair16 p).toNat : Int) - 1) % 65536 ∧
      (p ≠ .sp → t.sp = s.sp) ∧ t.f = s.f ∧ Frame s t (pairRegs p) [])

/-- R308 to R311: `DI`, `EI`, `HALT` and `STOP`: one machine cycle; which latch or run flag each writes, and that nothing else
changes. STOP advances PC by `STOP_LENGTH` and does not read its pad byte. -/
def Obligations.EnableHaltStop : Prop :=
  ∀ s : State,
    (∃ t, exec .di s = .next t ∧ OneCycle s t ∧ t.imeNext = false ∧ t.ime = (s.config.diDelayed && s.ime) ∧
      t.f = s.f ∧ t.sp = s.sp ∧ t.running = s.running ∧ KeepsDebug s t ∧ KeepsRegs s t [] ∧ KeepsHolds s t ∧
      KeepsMemory s t []) ∧
    (∃ t, exec .ei s = .next t ∧ OneCycle s t ∧ t.imeNext = true ∧ t.ime = s.ime ∧
      t.f = s.f ∧ t.sp = s.sp ∧ t.running = s.running ∧ KeepsDebug s t ∧ KeepsRegs s t [] ∧ KeepsHolds s t ∧
      KeepsMemory s t []) ∧
    (∃ t, exec .halt s = .next t ∧ OneCycle s t ∧ t.running = false ∧ t.ime = s.ime ∧ t.imeNext = s.imeNext ∧
      t.f = s.f ∧ t.sp = s.sp ∧ KeepsDebug s t ∧ KeepsRegs s t [] ∧ KeepsHolds s t ∧ KeepsMemory s t []) ∧
    (∃ t, exec .stop s = .next t ∧ t.pc = s.pc + BitVec.ofNat 16 s.config.stopLength ∧ t.clock = s.clock + 4 ∧
      BusLog s t [.tick 4] ∧ t.stopped = true ∧ t.running = s.running ∧ t.ime = s.ime ∧ t.imeNext = s.imeNext ∧
      t.f = s.f ∧ t.sp = s.sp ∧ KeepsDebug s t ∧ KeepsRegs s t [] ∧ KeepsMemory s t [] ∧
      (s.EnvIdle t.clock → t.blocked = s.blocked ∧ t.env = s.env))
end

