-- ==== Sys2Proof/Laws/Decode.lean ====
section
/-! SUPPORT. The decoder by the length of the instruction: how a proof about `decode` reduces to one about a table slot. -/

namespace Sys2Proof

/-- A one-byte instruction (R91). -/
theorem decode_one {op : Byte} {rest : List Byte} {i : Instr} (hl : lengthOf op = 1)
    (hi : (primaryEntry op (rest.getD 0 0) (rest.getD 1 0)).bind resolvePrefix = some i) :
    decode (op :: rest) = .ok (i, rest) := by
  simp only [decode, hl, hi]
  simp

/-- A two-byte instruction (R91). -/
theorem decode_two {op b : Byte} {rest : List Byte} {i : Instr} (hl : lengthOf op = 2)
    (hi : (primaryEntry op b (rest.getD 0 0)).bind resolvePrefix = some i) :
    decode (op :: b :: rest) = .ok (i, rest) := by
  simp only [decode, hl, List.getD_cons_zero, List.getD_cons_succ, hi]
  simp

/-- A three-byte instruction (R91). -/
theorem decode_three {op b1 b2 : Byte} {rest : List Byte} {i : Instr} (hl : lengthOf op = 3)
    (hi : (primaryEntry op b1 b2).bind resolvePrefix = some i) :
    decode (op :: b1 :: b2 :: rest) = .ok (i, rest) := by
  simp only [decode, hl, List.getD_cons_zero, List.getD_cons_succ, hi]
  simp

/-- What a successful decoding says: enough bytes, the instruction of the table slot, and the bytes after it. -/
theorem decode_ok {bytes rest : List Byte} {i : Instr} (h : decode bytes = .ok (i, rest)) :
    ∃ op tail, bytes = op :: tail ∧ lengthOf op ≤ tail.length + 1 ∧ rest = tail.drop (lengthOf op - 1) ∧
      (primaryEntry op (tail.getD 0 0) (tail.getD 1 0)).bind resolvePrefix = some i := by
  cases bytes with
  | nil => simp [decode] at h
  | cons op tail =>
    simp only [decode] at h
    split at h
    · cases h
    · next hlen =>
      split at h
      · next j hj =>
        cases h
        exact ⟨op, tail, rfl, by omega, rfl, hj⟩
      · cases h

end Sys2Proof
end

