-- ==== Sys2Proof/Laws/Flags.lean ====
section
/-! SUPPORT. The flags of a packed F, and what the flag computations give as numbers. -/

namespace Sys2Proof.Machine

/-! ## Packing (rules R8, R23) -/

section
variable (z n h c : Bool)
@[simp] theorem packFlags_mask : packFlags z n h c &&& 240#8 = packFlags z n h c := by
  cases z <;> cases n <;> cases h <;> cases c <;> rfl
@[simp] theorem packFlags_low : packFlags z n h c &&& 15#8 = 0#8 := by
  cases z <;> cases n <;> cases h <;> cases c <;> rfl
@[simp] theorem flagZ_pack : flagZ (packFlags z n h c) = z := by
  cases z <;> cases n <;> cases h <;> cases c <;> rfl
@[simp] theorem flagN_pack : flagN (packFlags z n h c) = n := by
  cases z <;> cases n <;> cases h <;> cases c <;> rfl
@[simp] theorem flagH_pack : flagH (packFlags z n h c) = h := by
  cases z <;> cases n <;> cases h <;> cases c <;> rfl
@[simp] theorem flagC_pack : flagC (packFlags z n h c) = c := by
  cases z <;> cases n <;> cases h <;> cases c <;> rfl
end

/-- A masked byte has a zero low nibble (R23). -/
@[simp] theorem mask_low (v : Byte) : v &&& 240#8 &&& 15#8 = 0#8 := by
  rw [BitVec.and_assoc]; exact BitVec.and_zero

/-- F after a write has a zero low nibble (R23). -/
@[simp] theorem setF_low (s : State) (v : Byte) : (s.setF v).f &&& 15#8 = 0#8 := mask_low v

/-! ## The flags each function gives (rules R171, R200, R230, R247, R304, R153) -/

section
variable (a v f : Byte) (c : Bool)
@[simp] theorem add8_flags : (add8 a v).2 =
    packFlags ((add8 a v).1 = 0#8) false (15 < a.toNat % 16 + v.toNat % 16) (255 < a.toNat + v.toNat) := rfl
@[simp] theorem adc8_flags : (adc8 a v c).2 =
    packFlags ((adc8 a v c).1 = 0#8) false (15 < a.toNat % 16 + v.toNat % 16 + b2i c) (255 < a.toNat + v.toNat + b2i c) := rfl
@[simp] theorem sub8_flags : (sub8 a v).2 =
    packFlags ((sub8 a v).1 = 0#8) true (a.toNat % 16 < v.toNat % 16) (a.toNat < v.toNat) := rfl
@[simp] theorem sbc8_flags : (sbc8 a v c).2 =
    packFlags ((sbc8 a v c).1 = 0#8) true (a.toNat % 16 < v.toNat % 16 + b2i c) (a.toNat < v.toNat + b2i c) := rfl
@[simp] theorem and8_fst : (and8 a v).1 = a &&& v := rfl
@[simp] theorem and8_flags : (and8 a v).2 = packFlags (a &&& v = 0#8) false true false := rfl
@[simp] theorem xor8_fst : (xor8 a v).1 = a ^^^ v := rfl
@[simp] theorem xor8_flags : (xor8 a v).2 = packFlags (a ^^^ v = 0#8) false false false := rfl
@[simp] theorem or8_fst : (or8 a v).1 = a ||| v := rfl
@[simp] theorem or8_flags : (or8 a v).2 = packFlags (a ||| v = 0#8) false false false := rfl
@[simp] theorem inc8_flags : (inc8 v f).2 = packFlags ((inc8 v f).1 = 0#8) false (v.toNat % 16 = 15) (flagC f) := rfl
@[simp] theorem dec8_flags : (dec8 v f).2 = packFlags ((dec8 v f).1 = 0#8) true (v.toNat % 16 = 0) (flagC f) := rfl
@[simp] theorem shiftFlags_eq (x : Byte × Bool) : shiftFlags x = packFlags (x.1 = 0#8) false false x.2 := rfl
@[simp] theorem accRotFlags_eq (z : Bool) : accRotFlags z c = packFlags z false false c := rfl
@[simp] theorem bitFlags_eq (n : BitVec 3) :
    bitFlags v n f = packFlags (!v.getLsbD n.toNat) false true (flagC f) := rfl
theorem daa8_flags : (daa8 a f).2 = packFlags ((daa8 a f).1 = 0#8) (flagN f) false
    (if flagN f then flagC f else flagC f || decide (0x99 < a.toNat)) := by
  unfold daa8; cases flagN f <;> rfl
@[simp] theorem rlc8_out : (rlc8 v).2 = v.getLsbD 7 := rfl
@[simp] theorem rrc8_out : (rrc8 v).2 = v.getLsbD 0 := rfl
@[simp] theorem rl8_out : (rl8 v c).2 = v.getLsbD 7 := rfl
@[simp] theorem rr8_out : (rr8 v c).2 = v.getLsbD 0 := rfl
@[simp] theorem sla8_out : (sla8 v).2 = v.getLsbD 7 := rfl
@[simp] theorem sra8_out : (sra8 v).2 = v.getLsbD 0 := rfl
@[simp] theorem srl8_out : (srl8 v).2 = v.getLsbD 0 := rfl
@[simp] theorem swap8_out : (swap8 v).2 = false := rfl
@[simp] theorem addWord_flags (x y : Word) : (addWord x y f).2 = packFlags (flagZ f) false
    (4095 < x.toNat % 4096 + y.toNat % 4096) (65535 < x.toNat + y.toNat) := rfl
@[simp] theorem addSpSigned_flags (sp : Word) (e : Byte) : (addSpSigned sp e).2 = packFlags false false
    (15 < sp.toNat % 16 + e.toNat % 16) (255 < sp.toNat % 256 + e.toNat) := rfl
end

/-! ## Results as numbers (rules R171, R230, R304) -/

@[simp] theorem add8_toNat (a v : Byte) : (add8 a v).1.toNat = (a.toNat + v.toNat) % 256 := by simp [add8]
@[simp] theorem adc8_toNat (a v : Byte) (c : Bool) : (adc8 a v c).1.toNat = (a.toNat + v.toNat + b2i c) % 256 := by
  simp [adc8]

/-- A number reduced to a byte, as an integer. -/
theorem ofInt_toNat8 (x : Int) : ((BitVec.ofInt 8 x).toNat : Int) = x % 256 := by
  rw [BitVec.toNat_ofInt]
  have := Int.emod_nonneg x (b := 256) (by omega)
  simp only [Nat.reducePow, Nat.cast_ofNat, Int.toNat_of_nonneg this]

@[simp] theorem sub8_toNat (a v : Byte) : ((sub8 a v).1.toNat : Int) = ((a.toNat : Int) - v.toNat) % 256 :=
  ofInt_toNat8 _
@[simp] theorem sbc8_toNat (a v : Byte) (c : Bool) :
    ((sbc8 a v c).1.toNat : Int) = ((a.toNat : Int) - v.toNat - b2i c) % 256 := ofInt_toNat8 _
@[simp] theorem inc8_toNat (x f : Byte) : (inc8 x f).1.toNat = (x.toNat + 1) % 256 := by simp [inc8]
@[simp] theorem dec8_toNat (x f : Byte) : ((dec8 x f).1.toNat : Int) = ((x.toNat : Int) - 1) % 256 := ofInt_toNat8 _

@[simp] theorem addWord_toNat (x y : Word) (f : Byte) : (addWord x y f).1.toNat = (x.toNat + y.toNat) % 65536 := by
  simp [addWord]

/-- The displacement is added as a two's-complement number (R7, R153, R307). -/
@[simp] theorem addSpSigned_fst (sp : Word) (e : Byte) : (addSpSigned sp e).1 = sp + BitVec.ofInt 16 e.toInt := rfl

/-- `sext8` as a number reduced to 16 bits (R7). -/
theorem sext8_eq (e : Byte) : sext8 e = BitVec.ofInt 16 e.toInt := rfl

/-- The difference is zero exactly when the operands are equal (R193). -/
theorem sub8_eq_zero (a v : Byte) : (sub8 a v).1 = 0#8 ↔ a = v := by
  have h := sub8_toNat a v
  have ha := a.isLt
  have hv := v.isLt
  constructor
  · intro e
    rw [e] at h
    apply BitVec.eq_of_toNat_eq
    simp only [BitVec.toNat_ofNat] at h
    omega
  · rintro rfl
    apply BitVec.eq_of_toNat_eq
    simp only [BitVec.toNat_ofNat]
    omega

/-- The eight shift functions, by their number. -/
theorem shift_table : ∀ x : Byte, ∀ c : Bool,
    (rlc8 x).1.toNat = x.toNat * 2 % 256 + x.toNat / 128 ∧ (rrc8 x).1.toNat = x.toNat / 2 + 128 * (x.toNat % 2) ∧
    (rl8 x c).1.toNat = x.toNat * 2 % 256 + b2i c ∧ (rr8 x c).1.toNat = x.toNat / 2 + 128 * b2i c ∧
    (sla8 x).1.toNat = x.toNat * 2 % 256 ∧ (sra8 x).1.toNat = x.toNat / 2 + 128 * (x.toNat / 128) ∧
    (swap8 x).1.toNat = x.toNat % 16 * 16 + x.toNat / 16 ∧ (srl8 x).1.toNat = x.toNat / 2 := by
  decide +kernel

/-- Clearing one bit (R249). -/
theorem res_bit (x : Byte) (n k : Nat) (hk : k < 8) :
    (x &&& ~~~bitMask n).getLsbD k = (decide (k ≠ n) && x.getLsbD k) := by
  by_cases h : k = n
  · subst h; simp [bitMask, hk]
  · by_cases hn : n ≤ k
    · have hz : k - n ≠ 0 := by omega
      simp [bitMask, hk, h, hz, Bool.and_comm]
    · simp [bitMask, hk, h, Bool.and_comm, Nat.lt_of_not_le hn]

/-- Setting one bit (R251). -/
theorem set_bit (x : Byte) (n k : Nat) (hk : k < 8) :
    (x ||| bitMask n).getLsbD k = (decide (k = n) || x.getLsbD k) := by
  by_cases h : k = n
  · subst h; simp [bitMask, hk]
  · by_cases hn : n ≤ k
    · have hz : k - n ≠ 0 := by omega
      simp [bitMask, hk, h, hz]
    · simp [bitMask, hk, h, Nat.lt_of_not_le hn]

end Sys2Proof.Machine
end

