-- ==== Sys2Proof/Laws/Memory.lean ====
section
/-! SUPPORT. The laws of memory: a read after a write to the same place gives the value written, a write leaves every other place
alone, every operation keeps the canonical form, and memories in canonical form that read alike are equal. -/

namespace Sys2Proof.Machine

theorem Memory.read_erase_other (m : Memory) (a x : Nat) (h : x ≠ a) : (m.erase a).read x = m.read x := by
  induction m with
  | nil => rfl
  | cons y rest ih =>
    simp only [Memory.erase, List.filter_cons] at ih ⊢
    by_cases hy : y.1 = a
    · have hyx : y.1 ≠ x := fun e => h (e.symm.trans hy)
      simp [hy, Memory.read, ih, h.symm]
    · have hb : (y.1 != a) = true := by simpa using hy
      rw [if_pos hb]
      simp only [Memory.read, ih]

theorem Memory.read_erase_same (m : Memory) (a : Nat) : (m.erase a).read a = memFill := by
  induction m with
  | nil => rfl
  | cons y rest ih =>
    simp only [Memory.erase, List.filter_cons] at ih ⊢
    by_cases hy : y.1 = a <;> simp [hy, Memory.read, ih]

theorem Memory.read_insert_same (m : Memory) (a : Nat) (v : Byte) (h : ∀ y ∈ m, y.1 ≠ a) :
    (m.insert a v).read a = v := by
  induction m with
  | nil => simp [Memory.insert, Memory.read]
  | cons y rest ih =>
    have hy : y.1 ≠ a := h y (by simp)
    by_cases hlt : a < y.1
    · simp [Memory.insert, hlt, Memory.read]
    · simp [Memory.insert, hlt, Memory.read, hy, ih (fun z hz => h z (by simp [hz]))]

theorem Memory.read_insert_other (m : Memory) (a x : Nat) (v : Byte) (h : x ≠ a) :
    (m.insert a v).read x = m.read x := by
  induction m with
  | nil => simp [Memory.insert, Memory.read, h.symm]
  | cons y rest ih =>
    by_cases hlt : a < y.1
    · simp [Memory.insert, hlt, Memory.read, h.symm]
    · simp only [Memory.insert, hlt, if_false, Memory.read, ih]

theorem Memory.erase_ne (m : Memory) (a : Nat) : ∀ y ∈ m.erase a, y.1 ≠ a := by
  intro y hy
  simpa using (List.mem_filter.mp hy).2

/-- A read after a write to the same place gives the value written (R61), in every list of cells. -/
@[simp] theorem Memory.read_write_same (m : Memory) (a : Nat) (v : Byte) : (m.write a v).read a = v := by
  unfold Memory.write
  split
  · next h => rw [h, Memory.read_erase_same]
  · exact Memory.read_insert_same _ _ _ (m.erase_ne a)

/-- A write leaves every other place alone (R61). -/
theorem Memory.read_write_other (m : Memory) (a x : Nat) (v : Byte) (h : x ≠ a) :
    (m.write a v).read x = m.read x := by
  unfold Memory.write
  split
  · exact m.read_erase_other a x h
  · rw [Memory.read_insert_other _ _ _ _ h, m.read_erase_other a x h]

theorem Memory.wf_nil : Memory.wf [] := by simp [Memory.wf]

theorem Memory.wf_erase (m : Memory) (a : Nat) (h : m.wf) : (m.erase a).wf :=
  ⟨h.1.filter _, fun x hx => h.2 x (List.mem_filter.mp hx).1⟩

theorem Memory.mem_insert (m : Memory) (a : Nat) (v : Byte) (x : Host.Cell) :
    x ∈ m.insert a v ↔ x = (a, v) ∨ x ∈ m := by
  induction m with
  | nil => simp [Memory.insert]
  | cons y rest ih =>
    by_cases hlt : a < y.1
    · simp [Memory.insert, hlt]
    · simp only [Memory.insert, hlt, if_false, List.mem_cons, ih]
      tauto

theorem Memory.wf_insert (m : Memory) (a : Nat) (v : Byte) (h : m.wf) (ha : a < 65536) (hv : v ≠ memFill)
    (hne : ∀ y ∈ m, y.1 ≠ a) : (m.insert a v).wf := by
  refine ⟨?_, fun x hx => ?_⟩
  · have hp := h.1
    clear h
    induction m with
    | nil => simp [Memory.insert]
    | cons y rest ih =>
      rw [List.pairwise_cons] at hp
      by_cases hlt : a < y.1
      · simp only [Memory.insert, hlt, if_true, List.pairwise_cons]
        refine ⟨fun z hz => ?_, hp.1, hp.2⟩
        rcases List.mem_cons.mp hz with rfl | hz
        · exact hlt
        · exact Nat.lt_trans hlt (hp.1 z hz)
      · simp only [Memory.insert, hlt, if_false, List.pairwise_cons]
        refine ⟨fun z hz => ?_, ih (fun z hz => hne z (by simp [hz])) hp.2⟩
        rcases (Memory.mem_insert rest a v z).mp hz with rfl | hz
        · have := hne y (by simp)
          simp only
          omega
        · exact hp.1 z hz
  · rcases (Memory.mem_insert m a v x).mp hx with rfl | hx
    · exact ⟨ha, hv⟩
    · exact h.2 x hx

/-- A write at an address of the space keeps the canonical form. -/
theorem Memory.wf_write (m : Memory) (a : Nat) (v : Byte) (h : m.wf) (ha : a < 65536) : (m.write a v).wf := by
  unfold Memory.write
  split
  · exact m.wf_erase a h
  · next hv => exact Memory.wf_insert _ a v (m.wf_erase a h) ha hv (m.erase_ne a)

theorem Memory.read_of_lt (m : Memory) (a : Nat) (h : ∀ y ∈ m, a < y.1) : m.read a = memFill := by
  induction m with
  | nil => rfl
  | cons y rest ih =>
    have hy : y.1 ≠ a := (Nat.ne_of_lt (h y (by simp))).symm
    simp [Memory.read, hy, ih (fun z hz => h z (by simp [hz]))]

/-- Memories in canonical form that read alike everywhere are equal data. -/
theorem Memory.eq_of_read (m n : Memory) (hm : m.wf) (hn : n.wf) (h : ∀ a, m.read a = n.read a) : m = n := by
  induction m generalizing n with
  | nil =>
    cases n with
    | nil => rfl
    | cons y rest =>
      have := h y.1
      simp only [Memory.read, if_true] at this
      exact absurd this.symm (hn.2 y (by simp)).2
  | cons x xs ih =>
    have hx := List.pairwise_cons.mp hm.1
    cases n with
    | nil =>
      have := h x.1
      simp only [Memory.read, if_true] at this
      exact absurd this (hm.2 x (by simp)).2
    | cons y ys =>
      have hy := List.pairwise_cons.mp hn.1
      have hxy : x = y := by
        rcases Nat.lt_trichotomy x.1 y.1 with hlt | heq | hgt
        · have hl : Memory.read (y :: ys) x.1 = memFill := Memory.read_of_lt _ _ (fun z hz => by
            rcases List.mem_cons.mp hz with rfl | hz
            · exact hlt
            · exact Nat.lt_trans hlt (hy.1 z hz))
          have := (h x.1).trans hl
          simp only [Memory.read, if_true] at this
          exact absurd this (hm.2 x (by simp)).2
        · have := h x.1
          simp only [Memory.read, if_true, heq] at this
          exact Prod.ext heq this
        · have hl : Memory.read (x :: xs) y.1 = memFill := Memory.read_of_lt _ _ (fun z hz => by
            rcases List.mem_cons.mp hz with rfl | hz
            · exact hgt
            · exact Nat.lt_trans hgt (hx.1 z hz))
          have := (h y.1).symm.trans hl
          simp only [Memory.read, if_true] at this
          exact absurd this (hn.2 y (by simp)).2
      subst hxy
      congr 1
      refine ih ys ⟨hx.2, fun z hz => hm.2 z (by simp [hz])⟩ ⟨hy.2, fun z hz => hn.2 z (by simp [hz])⟩ fun a => ?_
      by_cases ha : x.1 = a
      · subst ha
        rw [Memory.read_of_lt xs _ hx.1, Memory.read_of_lt ys _ hy.1]
      · have := h a
        simpa only [Memory.read, ha, if_false] using this

end Sys2Proof.Machine
end

