-- ==== Sys2Proof/Laws/State.lean ====
section
/-! SUPPORT. One lemma per field per update of `State`, and the reads of registers, pairs and memory through each update. -/

namespace Sys2Proof.Machine

/-! ## `record` -/

section
variable (s : State) (ev : BusEvent)
@[simp] theorem record_a : (s.record ev).a = s.a := rfl
@[simp] theorem record_f : (s.record ev).f = s.f := rfl
@[simp] theorem record_b : (s.record ev).b = s.b := rfl
@[simp] theorem record_c : (s.record ev).c = s.c := rfl
@[simp] theorem record_d : (s.record ev).d = s.d := rfl
@[simp] theorem record_e : (s.record ev).e = s.e := rfl
@[simp] theorem record_h : (s.record ev).h = s.h := rfl
@[simp] theorem record_l : (s.record ev).l = s.l := rfl
@[simp] theorem record_pc : (s.record ev).pc = s.pc := rfl
@[simp] theorem record_sp : (s.record ev).sp = s.sp := rfl
@[simp] theorem record_clock : (s.record ev).clock = s.clock := rfl
@[simp] theorem record_running : (s.record ev).running = s.running := rfl
@[simp] theorem record_stopped : (s.record ev).stopped = s.stopped := rfl
@[simp] theorem record_ime : (s.record ev).ime = s.ime := rfl
@[simp] theorem record_imeNext : (s.record ev).imeNext = s.imeNext := rfl
@[simp] theorem record_blocked : (s.record ev).blocked = s.blocked := rfl
@[simp] theorem record_mem : (s.record ev).mem = s.mem := rfl
@[simp] theorem record_execBp : (s.record ev).execBp = s.execBp := rfl
@[simp] theorem record_trapped : (s.record ev).trapped = s.trapped := rfl
@[simp] theorem record_trapResolved : (s.record ev).trapResolved = s.trapResolved := rfl
@[simp] theorem record_config : (s.record ev).config = s.config := rfl
@[simp] theorem record_env : (s.record ev).env = s.env := rfl
@[simp] theorem record_history : (s.record ev).history = ev :: s.history := rfl
@[simp] theorem record_reg (r : Reg8) : (s.record ev).reg r = s.reg r := by cases r <;> rfl
@[simp] theorem record_bc : (s.record ev).bc = s.bc := rfl
@[simp] theorem record_de : (s.record ev).de = s.de := rfl
@[simp] theorem record_hl : (s.record ev).hl = s.hl := rfl
@[simp] theorem record_peek (x : Word) : (s.record ev).peek x = s.peek x := rfl
@[simp] theorem record_highAddr (n : Byte) : (s.record ev).highAddr n = s.highAddr n := rfl
end

/-! ## `setPc` -/

section
variable (s : State) (v : Word)
@[simp] theorem setPc_a : (s.setPc v).a = s.a := rfl
@[simp] theorem setPc_f : (s.setPc v).f = s.f := rfl
@[simp] theorem setPc_b : (s.setPc v).b = s.b := rfl
@[simp] theorem setPc_c : (s.setPc v).c = s.c := rfl
@[simp] theorem setPc_d : (s.setPc v).d = s.d := rfl
@[simp] theorem setPc_e : (s.setPc v).e = s.e := rfl
@[simp] theorem setPc_h : (s.setPc v).h = s.h := rfl
@[simp] theorem setPc_l : (s.setPc v).l = s.l := rfl
@[simp] theorem setPc_pc : (s.setPc v).pc = v := rfl
@[simp] theorem setPc_sp : (s.setPc v).sp = s.sp := rfl
@[simp] theorem setPc_clock : (s.setPc v).clock = s.clock := rfl
@[simp] theorem setPc_running : (s.setPc v).running = s.running := rfl
@[simp] theorem setPc_stopped : (s.setPc v).stopped = s.stopped := rfl
@[simp] theorem setPc_ime : (s.setPc v).ime = s.ime := rfl
@[simp] theorem setPc_imeNext : (s.setPc v).imeNext = s.imeNext := rfl
@[simp] theorem setPc_blocked : (s.setPc v).blocked = s.blocked := rfl
@[simp] theorem setPc_mem : (s.setPc v).mem = s.mem := rfl
@[simp] theorem setPc_execBp : (s.setPc v).execBp = s.execBp := rfl
@[simp] theorem setPc_trapped : (s.setPc v).trapped = s.trapped := rfl
@[simp] theorem setPc_trapResolved : (s.setPc v).trapResolved = s.trapResolved := rfl
@[simp] theorem setPc_config : (s.setPc v).config = s.config := rfl
@[simp] theorem setPc_env : (s.setPc v).env = s.env := rfl
@[simp] theorem setPc_history : (s.setPc v).history = s.history := rfl
@[simp] theorem setPc_reg (r : Reg8) : (s.setPc v).reg r = s.reg r := by cases r <;> rfl
@[simp] theorem setPc_bc : (s.setPc v).bc = s.bc := rfl
@[simp] theorem setPc_de : (s.setPc v).de = s.de := rfl
@[simp] theorem setPc_hl : (s.setPc v).hl = s.hl := rfl
@[simp] theorem setPc_peek (x : Word) : (s.setPc v).peek x = s.peek x := rfl
@[simp] theorem setPc_highAddr (n : Byte) : (s.setPc v).highAddr n = s.highAddr n := rfl
end

/-! ## `setSp` -/

section
variable (s : State) (v : Word)
@[simp] theorem setSp_a : (s.setSp v).a = s.a := rfl
@[simp] theorem setSp_f : (s.setSp v).f = s.f := rfl
@[simp] theorem setSp_b : (s.setSp v).b = s.b := rfl
@[simp] theorem setSp_c : (s.setSp v).c = s.c := rfl
@[simp] theorem setSp_d : (s.setSp v).d = s.d := rfl
@[simp] theorem setSp_e : (s.setSp v).e = s.e := rfl
@[simp] theorem setSp_h : (s.setSp v).h = s.h := rfl
@[simp] theorem setSp_l : (s.setSp v).l = s.l := rfl
@[simp] theorem setSp_pc : (s.setSp v).pc = s.pc := rfl
@[simp] theorem setSp_sp : (s.setSp v).sp = v := rfl
@[simp] theorem setSp_clock : (s.setSp v).clock = s.clock := rfl
@[simp] theorem setSp_running : (s.setSp v).running = s.running := rfl
@[simp] theorem setSp_stopped : (s.setSp v).stopped = s.stopped := rfl
@[simp] theorem setSp_ime : (s.setSp v).ime = s.ime := rfl
@[simp] theorem setSp_imeNext : (s.setSp v).imeNext = s.imeNext := rfl
@[simp] theorem setSp_blocked : (s.setSp v).blocked = s.blocked := rfl
@[simp] theorem setSp_mem : (s.setSp v).mem = s.mem := rfl
@[simp] theorem setSp_execBp : (s.setSp v).execBp = s.execBp := rfl
@[simp] theorem setSp_trapped : (s.setSp v).trapped = s.trapped := rfl
@[simp] theorem setSp_trapResolved : (s.setSp v).trapResolved = s.trapResolved := rfl
@[simp] theorem setSp_config : (s.setSp v).config = s.config := rfl
@[simp] theorem setSp_env : (s.setSp v).env = s.env := rfl
@[simp] theorem setSp_history : (s.setSp v).history = s.history := rfl
@[simp] theorem setSp_reg (r : Reg8) : (s.setSp v).reg r = s.reg r := by cases r <;> rfl
@[simp] theorem setSp_bc : (s.setSp v).bc = s.bc := rfl
@[simp] theorem setSp_de : (s.setSp v).de = s.de := rfl
@[simp] theorem setSp_hl : (s.setSp v).hl = s.hl := rfl
@[simp] theorem setSp_peek (x : Word) : (s.setSp v).peek x = s.peek x := rfl
@[simp] theorem setSp_highAddr (n : Byte) : (s.setSp v).highAddr n = s.highAddr n := rfl
end

/-! ## `setF` -/

section
variable (s : State) (v : Byte)
@[simp] theorem setF_a : (s.setF v).a = s.a := rfl
@[simp] theorem setF_f : (s.setF v).f = v &&& 0xF0 := rfl
@[simp] theorem setF_b : (s.setF v).b = s.b := rfl
@[simp] theorem setF_c : (s.setF v).c = s.c := rfl
@[simp] theorem setF_d : (s.setF v).d = s.d := rfl
@[simp] theorem setF_e : (s.setF v).e = s.e := rfl
@[simp] theorem setF_h : (s.setF v).h = s.h := rfl
@[simp] theorem setF_l : (s.setF v).l = s.l := rfl
@[simp] theorem setF_pc : (s.setF v).pc = s.pc := rfl
@[simp] theorem setF_sp : (s.setF v).sp = s.sp := rfl
@[simp] theorem setF_clock : (s.setF v).clock = s.clock := rfl
@[simp] theorem setF_running : (s.setF v).running = s.running := rfl
@[simp] theorem setF_stopped : (s.setF v).stopped = s.stopped := rfl
@[simp] theorem setF_ime : (s.setF v).ime = s.ime := rfl
@[simp] theorem setF_imeNext : (s.setF v).imeNext = s.imeNext := rfl
@[simp] theorem setF_blocked : (s.setF v).blocked = s.blocked := rfl
@[simp] theorem setF_mem : (s.setF v).mem = s.mem := rfl
@[simp] theorem setF_execBp : (s.setF v).execBp = s.execBp := rfl
@[simp] theorem setF_trapped : (s.setF v).trapped = s.trapped := rfl
@[simp] theorem setF_trapResolved : (s.setF v).trapResolved = s.trapResolved := rfl
@[simp] theorem setF_config : (s.setF v).config = s.config := rfl
@[simp] theorem setF_env : (s.setF v).env = s.env := rfl
@[simp] theorem setF_history : (s.setF v).history = s.history := rfl
@[simp] theorem setF_reg (r : Reg8) : (s.setF v).reg r = s.reg r := by cases r <;> rfl
@[simp] theorem setF_bc : (s.setF v).bc = s.bc := rfl
@[simp] theorem setF_de : (s.setF v).de = s.de := rfl
@[simp] theorem setF_hl : (s.setF v).hl = s.hl := rfl
@[simp] theorem setF_peek (x : Word) : (s.setF v).peek x = s.peek x := rfl
@[simp] theorem setF_highAddr (n : Byte) : (s.setF v).highAddr n = s.highAddr n := rfl
end

/-! ## `setIme` -/

section
variable (s : State) (v : Bool)
@[simp] theorem setIme_a : (s.setIme v).a = s.a := rfl
@[simp] theorem setIme_f : (s.setIme v).f = s.f := rfl
@[simp] theorem setIme_b : (s.setIme v).b = s.b := rfl
@[simp] theorem setIme_c : (s.setIme v).c = s.c := rfl
@[simp] theorem setIme_d : (s.setIme v).d = s.d := rfl
@[simp] theorem setIme_e : (s.setIme v).e = s.e := rfl
@[simp] theorem setIme_h : (s.setIme v).h = s.h := rfl
@[simp] theorem setIme_l : (s.setIme v).l = s.l := rfl
@[simp] theorem setIme_pc : (s.setIme v).pc = s.pc := rfl
@[simp] theorem setIme_sp : (s.setIme v).sp = s.sp := rfl
@[simp] theorem setIme_clock : (s.setIme v).clock = s.clock := rfl
@[simp] theorem setIme_running : (s.setIme v).running = s.running := rfl
@[simp] theorem setIme_stopped : (s.setIme v).stopped = s.stopped := rfl
@[simp] theorem setIme_ime : (s.setIme v).ime = v := rfl
@[simp] theorem setIme_imeNext : (s.setIme v).imeNext = s.imeNext := rfl
@[simp] theorem setIme_blocked : (s.setIme v).blocked = s.blocked := rfl
@[simp] theorem setIme_mem : (s.setIme v).mem = s.mem := rfl
@[simp] theorem setIme_execBp : (s.setIme v).execBp = s.execBp := rfl
@[simp] theorem setIme_trapped : (s.setIme v).trapped = s.trapped := rfl
@[simp] theorem setIme_trapResolved : (s.setIme v).trapResolved = s.trapResolved := rfl
@[simp] theorem setIme_config : (s.setIme v).config = s.config := rfl
@[simp] theorem setIme_env : (s.setIme v).env = s.env := rfl
@[simp] theorem setIme_history : (s.setIme v).history = s.history := rfl
@[simp] theorem setIme_reg (r : Reg8) : (s.setIme v).reg r = s.reg r := by cases r <;> rfl
@[simp] theorem setIme_bc : (s.setIme v).bc = s.bc := rfl
@[simp] theorem setIme_de : (s.setIme v).de = s.de := rfl
@[simp] theorem setIme_hl : (s.setIme v).hl = s.hl := rfl
@[simp] theorem setIme_peek (x : Word) : (s.setIme v).peek x = s.peek x := rfl
@[simp] theorem setIme_highAddr (n : Byte) : (s.setIme v).highAddr n = s.highAddr n := rfl
end

/-! ## `setImeNext` -/

section
variable (s : State) (v : Bool)
@[simp] theorem setImeNext_a : (s.setImeNext v).a = s.a := rfl
@[simp] theorem setImeNext_f : (s.setImeNext v).f = s.f := rfl
@[simp] theorem setImeNext_b : (s.setImeNext v).b = s.b := rfl
@[simp] theorem setImeNext_c : (s.setImeNext v).c = s.c := rfl
@[simp] theorem setImeNext_d : (s.setImeNext v).d = s.d := rfl
@[simp] theorem setImeNext_e : (s.setImeNext v).e = s.e := rfl
@[simp] theorem setImeNext_h : (s.setImeNext v).h = s.h := rfl
@[simp] theorem setImeNext_l : (s.setImeNext v).l = s.l := rfl
@[simp] theorem setImeNext_pc : (s.setImeNext v).pc = s.pc := rfl
@[simp] theorem setImeNext_sp : (s.setImeNext v).sp = s.sp := rfl
@[simp] theorem setImeNext_clock : (s.setImeNext v).clock = s.clock := rfl
@[simp] theorem setImeNext_running : (s.setImeNext v).running = s.running := rfl
@[simp] theorem setImeNext_stopped : (s.setImeNext v).stopped = s.stopped := rfl
@[simp] theorem setImeNext_ime : (s.setImeNext v).ime = s.ime := rfl
@[simp] theorem setImeNext_imeNext : (s.setImeNext v).imeNext = v := rfl
@[simp] theorem setImeNext_blocked : (s.setImeNext v).blocked = s.blocked := rfl
@[simp] theorem setImeNext_mem : (s.setImeNext v).mem = s.mem := rfl
@[simp] theorem setImeNext_execBp : (s.setImeNext v).execBp = s.execBp := rfl
@[simp] theorem setImeNext_trapped : (s.setImeNext v).trapped = s.trapped := rfl
@[simp] theorem setImeNext_trapResolved : (s.setImeNext v).trapResolved = s.trapResolved := rfl
@[simp] theorem setImeNext_config : (s.setImeNext v).config = s.config := rfl
@[simp] theorem setImeNext_env : (s.setImeNext v).env = s.env := rfl
@[simp] theorem setImeNext_history : (s.setImeNext v).history = s.history := rfl
@[simp] theorem setImeNext_reg (r : Reg8) : (s.setImeNext v).reg r = s.reg r := by cases r <;> rfl
@[simp] theorem setImeNext_bc : (s.setImeNext v).bc = s.bc := rfl
@[simp] theorem setImeNext_de : (s.setImeNext v).de = s.de := rfl
@[simp] theorem setImeNext_hl : (s.setImeNext v).hl = s.hl := rfl
@[simp] theorem setImeNext_peek (x : Word) : (s.setImeNext v).peek x = s.peek x := rfl
@[simp] theorem setImeNext_highAddr (n : Byte) : (s.setImeNext v).highAddr n = s.highAddr n := rfl
end

/-! ## `setRunning` -/

section
variable (s : State) (v : Bool)
@[simp] theorem setRunning_a : (s.setRunning v).a = s.a := rfl
@[simp] theorem setRunning_f : (s.setRunning v).f = s.f := rfl
@[simp] theorem setRunning_b : (s.setRunning v).b = s.b := rfl
@[simp] theorem setRunning_c : (s.setRunning v).c = s.c := rfl
@[simp] theorem setRunning_d : (s.setRunning v).d = s.d := rfl
@[simp] theorem setRunning_e : (s.setRunning v).e = s.e := rfl
@[simp] theorem setRunning_h : (s.setRunning v).h = s.h := rfl
@[simp] theorem setRunning_l : (s.setRunning v).l = s.l := rfl
@[simp] theorem setRunning_pc : (s.setRunning v).pc = s.pc := rfl
@[simp] theorem setRunning_sp : (s.setRunning v).sp = s.sp := rfl
@[simp] theorem setRunning_clock : (s.setRunning v).clock = s.clock := rfl
@[simp] theorem setRunning_running : (s.setRunning v).running = v := rfl
@[simp] theorem setRunning_stopped : (s.setRunning v).stopped = s.stopped := rfl
@[simp] theorem setRunning_ime : (s.setRunning v).ime = s.ime := rfl
@[simp] theorem setRunning_imeNext : (s.setRunning v).imeNext = s.imeNext := rfl
@[simp] theorem setRunning_blocked : (s.setRunning v).blocked = s.blocked := rfl
@[simp] theorem setRunning_mem : (s.setRunning v).mem = s.mem := rfl
@[simp] theorem setRunning_execBp : (s.setRunning v).execBp = s.execBp := rfl
@[simp] theorem setRunning_trapped : (s.setRunning v).trapped = s.trapped := rfl
@[simp] theorem setRunning_trapResolved : (s.setRunning v).trapResolved = s.trapResolved := rfl
@[simp] theorem setRunning_config : (s.setRunning v).config = s.config := rfl
@[simp] theorem setRunning_env : (s.setRunning v).env = s.env := rfl
@[simp] theorem setRunning_history : (s.setRunning v).history = s.history := rfl
@[simp] theorem setRunning_reg (r : Reg8) : (s.setRunning v).reg r = s.reg r := by cases r <;> rfl
@[simp] theorem setRunning_bc : (s.setRunning v).bc = s.bc := rfl
@[simp] theorem setRunning_de : (s.setRunning v).de = s.de := rfl
@[simp] theorem setRunning_hl : (s.setRunning v).hl = s.hl := rfl
@[simp] theorem setRunning_peek (x : Word) : (s.setRunning v).peek x = s.peek x := rfl
@[simp] theorem setRunning_highAddr (n : Byte) : (s.setRunning v).highAddr n = s.highAddr n := rfl
end

/-! ## `setStopped` -/

section
variable (s : State) (v : Bool)
@[simp] theorem setStopped_a : (s.setStopped v).a = s.a := rfl
@[simp] theorem setStopped_f : (s.setStopped v).f = s.f := rfl
@[simp] theorem setStopped_b : (s.setStopped v).b = s.b := rfl
@[simp] theorem setStopped_c : (s.setStopped v).c = s.c := rfl
@[simp] theorem setStopped_d : (s.setStopped v).d = s.d := rfl
@[simp] theorem setStopped_e : (s.setStopped v).e = s.e := rfl
@[simp] theorem setStopped_h : (s.setStopped v).h = s.h := rfl
@[simp] theorem setStopped_l : (s.setStopped v).l = s.l := rfl
@[simp] theorem setStopped_pc : (s.setStopped v).pc = s.pc := rfl
@[simp] theorem setStopped_sp : (s.setStopped v).sp = s.sp := rfl
@[simp] theorem setStopped_clock : (s.setStopped v).clock = s.clock := rfl
@[simp] theorem setStopped_running : (s.setStopped v).running = s.running := rfl
@[simp] theorem setStopped_stopped : (s.setStopped v).stopped = v := rfl
@[simp] theorem setStopped_ime : (s.setStopped v).ime = s.ime := rfl
@[simp] theorem setStopped_imeNext : (s.setStopped v).imeNext = s.imeNext := rfl
@[simp] theorem setStopped_blocked : (s.setStopped v).blocked = s.blocked := rfl
@[simp] theorem setStopped_mem : (s.setStopped v).mem = s.mem := rfl
@[simp] theorem setStopped_execBp : (s.setStopped v).execBp = s.execBp := rfl
@[simp] theorem setStopped_trapped : (s.setStopped v).trapped = s.trapped := rfl
@[simp] theorem setStopped_trapResolved : (s.setStopped v).trapResolved = s.trapResolved := rfl
@[simp] theorem setStopped_config : (s.setStopped v).config = s.config := rfl
@[simp] theorem setStopped_env : (s.setStopped v).env = s.env := rfl
@[simp] theorem setStopped_history : (s.setStopped v).history = s.history := rfl
@[simp] theorem setStopped_reg (r : Reg8) : (s.setStopped v).reg r = s.reg r := by cases r <;> rfl
@[simp] theorem setStopped_bc : (s.setStopped v).bc = s.bc := rfl
@[simp] theorem setStopped_de : (s.setStopped v).de = s.de := rfl
@[simp] theorem setStopped_hl : (s.setStopped v).hl = s.hl := rfl
@[simp] theorem setStopped_peek (x : Word) : (s.setStopped v).peek x = s.peek x := rfl
@[simp] theorem setStopped_highAddr (n : Byte) : (s.setStopped v).highAddr n = s.highAddr n := rfl
end

/-! ## `setMem` -/

section
variable (s : State) (m : Memory)
@[simp] theorem setMem_a : (s.setMem m).a = s.a := rfl
@[simp] theorem setMem_f : (s.setMem m).f = s.f := rfl
@[simp] theorem setMem_b : (s.setMem m).b = s.b := rfl
@[simp] theorem setMem_c : (s.setMem m).c = s.c := rfl
@[simp] theorem setMem_d : (s.setMem m).d = s.d := rfl
@[simp] theorem setMem_e : (s.setMem m).e = s.e := rfl
@[simp] theorem setMem_h : (s.setMem m).h = s.h := rfl
@[simp] theorem setMem_l : (s.setMem m).l = s.l := rfl
@[simp] theorem setMem_pc : (s.setMem m).pc = s.pc := rfl
@[simp] theorem setMem_sp : (s.setMem m).sp = s.sp := rfl
@[simp] theorem setMem_clock : (s.setMem m).clock = s.clock := rfl
@[simp] theorem setMem_running : (s.setMem m).running = s.running := rfl
@[simp] theorem setMem_stopped : (s.setMem m).stopped = s.stopped := rfl
@[simp] theorem setMem_ime : (s.setMem m).ime = s.ime := rfl
@[simp] theorem setMem_imeNext : (s.setMem m).imeNext = s.imeNext := rfl
@[simp] theorem setMem_blocked : (s.setMem m).blocked = s.blocked := rfl
@[simp] theorem setMem_mem : (s.setMem m).mem = m := rfl
@[simp] theorem setMem_execBp : (s.setMem m).execBp = s.execBp := rfl
@[simp] theorem setMem_trapped : (s.setMem m).trapped = s.trapped := rfl
@[simp] theorem setMem_trapResolved : (s.setMem m).trapResolved = s.trapResolved := rfl
@[simp] theorem setMem_config : (s.setMem m).config = s.config := rfl
@[simp] theorem setMem_env : (s.setMem m).env = s.env := rfl
@[simp] theorem setMem_history : (s.setMem m).history = s.history := rfl
@[simp] theorem setMem_reg (r : Reg8) : (s.setMem m).reg r = s.reg r := by cases r <;> rfl
@[simp] theorem setMem_bc : (s.setMem m).bc = s.bc := rfl
@[simp] theorem setMem_de : (s.setMem m).de = s.de := rfl
@[simp] theorem setMem_hl : (s.setMem m).hl = s.hl := rfl
@[simp] theorem setMem_highAddr (n : Byte) : (s.setMem m).highAddr n = s.highAddr n := rfl
end

/-! ## `setReg` -/

section
variable (s : State) (r : Reg8) (v : Byte)
@[simp] theorem setReg_a : (s.setReg r v).a = if r = .a then v else s.a := by cases r <;> rfl
@[simp] theorem setReg_f : (s.setReg r v).f = s.f := by cases r <;> rfl
@[simp] theorem setReg_b : (s.setReg r v).b = if r = .b then v else s.b := by cases r <;> rfl
@[simp] theorem setReg_c : (s.setReg r v).c = if r = .c then v else s.c := by cases r <;> rfl
@[simp] theorem setReg_d : (s.setReg r v).d = if r = .d then v else s.d := by cases r <;> rfl
@[simp] theorem setReg_e : (s.setReg r v).e = if r = .e then v else s.e := by cases r <;> rfl
@[simp] theorem setReg_h : (s.setReg r v).h = if r = .h then v else s.h := by cases r <;> rfl
@[simp] theorem setReg_l : (s.setReg r v).l = if r = .l then v else s.l := by cases r <;> rfl
@[simp] theorem setReg_pc : (s.setReg r v).pc = s.pc := by cases r <;> rfl
@[simp] theorem setReg_sp : (s.setReg r v).sp = s.sp := by cases r <;> rfl
@[simp] theorem setReg_clock : (s.setReg r v).clock = s.clock := by cases r <;> rfl
@[simp] theorem setReg_running : (s.setReg r v).running = s.running := by cases r <;> rfl
@[simp] theorem setReg_stopped : (s.setReg r v).stopped = s.stopped := by cases r <;> rfl
@[simp] theorem setReg_ime : (s.setReg r v).ime = s.ime := by cases r <;> rfl
@[simp] theorem setReg_imeNext : (s.setReg r v).imeNext = s.imeNext := by cases r <;> rfl
@[simp] theorem setReg_blocked : (s.setReg r v).blocked = s.blocked := by cases r <;> rfl
@[simp] theorem setReg_mem : (s.setReg r v).mem = s.mem := by cases r <;> rfl
@[simp] theorem setReg_execBp : (s.setReg r v).execBp = s.execBp := by cases r <;> rfl
@[simp] theorem setReg_trapped : (s.setReg r v).trapped = s.trapped := by cases r <;> rfl
@[simp] theorem setReg_trapResolved : (s.setReg r v).trapResolved = s.trapResolved := by cases r <;> rfl
@[simp] theorem setReg_config : (s.setReg r v).config = s.config := by cases r <;> rfl
@[simp] theorem setReg_env : (s.setReg r v).env = s.env := by cases r <;> rfl
@[simp] theorem setReg_history : (s.setReg r v).history = s.history := by cases r <;> rfl
@[simp] theorem setReg_peek (x : Word) : (s.setReg r v).peek x = s.peek x := by cases r <;> rfl
@[simp] theorem setReg_highAddr (n : Byte) : (s.setReg r v).highAddr n = s.highAddr n := by cases r <;> rfl
theorem setReg_reg (q : Reg8) : (s.setReg r v).reg q = if q = r then v else s.reg q := by cases r <;> cases q <;> rfl
@[simp] theorem setReg_reg_same : (s.setReg r v).reg r = v := by cases r <;> rfl
theorem setReg_reg_other (q : Reg8) (hq : q ≠ r) : (s.setReg r v).reg q = s.reg q := by simp [setReg_reg, hq]
end

/-! ## `advance` and the register views -/

@[simp] theorem advance_eq (s : State) (n : Nat) : s.advance n = s.setPc (s.pc + BitVec.ofNat 16 n) := rfl

section
variable (s : State)
@[simp] theorem reg_b : s.reg .b = s.b := rfl
@[simp] theorem reg_c : s.reg .c = s.c := rfl
@[simp] theorem reg_d : s.reg .d = s.d := rfl
@[simp] theorem reg_e : s.reg .e = s.e := rfl
@[simp] theorem reg_h : s.reg .h = s.h := rfl
@[simp] theorem reg_l : s.reg .l = s.l := rfl
@[simp] theorem reg_a : s.reg .a = s.a := rfl
end

/-! ## The pairs (rule R22) -/

theorem mkWord_toNat (x y : Byte) : (mkWord x y).toNat = 256 * x.toNat + y.toNat := by
  have h := Nat.shiftLeft_add_eq_or_of_lt y.isLt x.toNat
  rw [mkWord, BitVec.toNat_append, ← h, Nat.shiftLeft_eq]
  omega

theorem hiByte_toNat (v : Word) : (hiByte v).toNat = v.toNat / 256 := by
  have := v.isLt
  simp only [hiByte, BitVec.extractLsb'_toNat, Nat.shiftRight_eq_div_pow]
  omega

theorem loByte_toNat (v : Word) : (loByte v).toNat = v.toNat % 256 := by
  simp [loByte, BitVec.extractLsb'_toNat]

@[simp] theorem hiByte_mkWord (x y : Byte) : hiByte (mkWord x y) = x := by
  apply BitVec.eq_of_toNat_eq
  have := y.isLt
  rw [hiByte_toNat, mkWord_toNat]
  omega

@[simp] theorem loByte_mkWord (x y : Byte) : loByte (mkWord x y) = y := by
  apply BitVec.eq_of_toNat_eq
  have := y.isLt
  rw [loByte_toNat, mkWord_toNat]
  omega

@[simp] theorem mkWord_hi_lo (v : Word) : mkWord (hiByte v) (loByte v) = v := by
  apply BitVec.eq_of_toNat_eq
  rw [mkWord_toNat, hiByte_toNat, loByte_toNat]
  omega

section
variable (s : State) (v : Word)
theorem setBc_eq : s.setBc v = (s.setReg .b (hiByte v)).setReg .c (loByte v) := rfl
@[simp] theorem setBc_bc : (s.setBc v).bc = v := by simp [State.bc, setBc_eq]
theorem setDe_eq : s.setDe v = (s.setReg .d (hiByte v)).setReg .e (loByte v) := rfl
@[simp] theorem setDe_de : (s.setDe v).de = v := by simp [State.de, setDe_eq]
theorem setHl_eq : s.setHl v = (s.setReg .h (hiByte v)).setReg .l (loByte v) := rfl
@[simp] theorem setHl_hl : (s.setHl v).hl = v := by simp [State.hl, setHl_eq]
theorem setAf_eq : s.setAf v = (s.setReg .a (hiByte v)).setF (loByte v) := rfl
end

end Sys2Proof.Machine
end

