-- ==== Sys2Proof/Laws/Ops.lean ====
section
/-! SUPPORT. What the shared operations do: the environment's turn and `Tick`, the bus, the timed helpers, the stack, taking an
interrupt and returning from one; and what they leave alone. -/

namespace Sys2Proof.Machine

/-! ## The environment's turn -/

/-- What no action of the environment changes, its turn does not change. -/
theorem runEnv_keeps {α : Type} (g : State → α) (henv : ∀ s q, g { s with env := q } = g s)
    (happ : ∀ x s, g (applyEnv x s) = g s) (q : List TimedAction) (s : State) : g (runEnv q s) = g s := by
  induction q generalizing s with
  | nil => exact henv s []
  | cons x rest ih =>
    unfold runEnv
    split
    · rw [ih, happ]
    · exact henv s _

/-- What every action of the environment keeps, its turn keeps. -/
theorem runEnv_preserves (P : State → Prop) (henv : ∀ s q, P s → P { s with env := q })
    (happ : ∀ x s, P s → P (applyEnv x s)) (q : List TimedAction) (s : State) (h : P s) : P (runEnv q s) := by
  induction q generalizing s with
  | nil => exact henv s [] h
  | cons x rest ih =>
    unfold runEnv
    split
    · exact ih _ (happ x.action s h)
    · exact henv s _ h

/-- The queue after the environment's turn is what is left of the queue. -/
theorem runEnv_env (q : List TimedAction) (s : State) : (runEnv q s).env <:+ q := by
  induction q generalizing s with
  | nil => simp [runEnv]
  | cons x rest ih =>
    unfold runEnv
    split
    · exact (ih _).trans (List.suffix_cons x rest)
    · exact List.suffix_refl _

section
variable (s : State) (n : Nat)
@[simp] theorem tick_a : (s.tick n).a = s.a := runEnv_keeps State.a (fun _ _ => rfl) (fun x _ => by cases x <;> rfl) _ _
@[simp] theorem tick_f : (s.tick n).f = s.f := runEnv_keeps State.f (fun _ _ => rfl) (fun x _ => by cases x <;> rfl) _ _
@[simp] theorem tick_b : (s.tick n).b = s.b := runEnv_keeps State.b (fun _ _ => rfl) (fun x _ => by cases x <;> rfl) _ _
@[simp] theorem tick_c : (s.tick n).c = s.c := runEnv_keeps State.c (fun _ _ => rfl) (fun x _ => by cases x <;> rfl) _ _
@[simp] theorem tick_d : (s.tick n).d = s.d := runEnv_keeps State.d (fun _ _ => rfl) (fun x _ => by cases x <;> rfl) _ _
@[simp] theorem tick_e : (s.tick n).e = s.e := runEnv_keeps State.e (fun _ _ => rfl) (fun x _ => by cases x <;> rfl) _ _
@[simp] theorem tick_h : (s.tick n).h = s.h := runEnv_keeps State.h (fun _ _ => rfl) (fun x _ => by cases x <;> rfl) _ _
@[simp] theorem tick_l : (s.tick n).l = s.l := runEnv_keeps State.l (fun _ _ => rfl) (fun x _ => by cases x <;> rfl) _ _
@[simp] theorem tick_pc : (s.tick n).pc = s.pc := runEnv_keeps State.pc (fun _ _ => rfl) (fun x _ => by cases x <;> rfl) _ _
@[simp] theorem tick_sp : (s.tick n).sp = s.sp := runEnv_keeps State.sp (fun _ _ => rfl) (fun x _ => by cases x <;> rfl) _ _
/-- `Tick(n)` is the sole clock advance (R27). -/
@[simp] theorem tick_clock : (s.tick n).clock = s.clock + n :=
  runEnv_keeps State.clock (fun _ _ => rfl) (fun x _ => by cases x <;> rfl) _ _
@[simp] theorem tick_running : (s.tick n).running = s.running :=
  runEnv_keeps State.running (fun _ _ => rfl) (fun x _ => by cases x <;> rfl) _ _
@[simp] theorem tick_ime : (s.tick n).ime = s.ime := runEnv_keeps State.ime (fun _ _ => rfl) (fun x _ => by cases x <;> rfl) _ _
@[simp] theorem tick_imeNext : (s.tick n).imeNext = s.imeNext :=
  runEnv_keeps State.imeNext (fun _ _ => rfl) (fun x _ => by cases x <;> rfl) _ _
@[simp] theorem tick_execBp : (s.tick n).execBp = s.execBp :=
  runEnv_keeps State.execBp (fun _ _ => rfl) (fun x _ => by cases x <;> rfl) _ _
@[simp] theorem tick_trapped : (s.tick n).trapped = s.trapped :=
  runEnv_keeps State.trapped (fun _ _ => rfl) (fun x _ => by cases x <;> rfl) _ _
@[simp] theorem tick_trapResolved : (s.tick n).trapResolved = s.trapResolved :=
  runEnv_keeps State.trapResolved (fun _ _ => rfl) (fun x _ => by cases x <;> rfl) _ _
@[simp] theorem tick_config : (s.tick n).config = s.config :=
  runEnv_keeps State.config (fun _ _ => rfl) (fun x _ => by cases x <;> rfl) _ _
/-- A tick emits one event (R11, R27). -/
@[simp] theorem tick_history : (s.tick n).history = .tick n :: s.history :=
  runEnv_keeps State.history (fun _ _ => rfl) (fun x _ => by cases x <;> rfl) _ _
@[simp] theorem tick_reg (r : Reg8) : (s.tick n).reg r = s.reg r := by cases r <;> simp
@[simp] theorem tick_bc : (s.tick n).bc = s.bc := by simp [State.bc]
@[simp] theorem tick_de : (s.tick n).de = s.de := by simp [State.de]
@[simp] theorem tick_hl : (s.tick n).hl = s.hl := by simp [State.hl]
@[simp] theorem tick_highAddr (x : Byte) : (s.tick n).highAddr x = s.highAddr x := by simp [State.highAddr]
theorem tick_env : (s.tick n).env <:+ s.env := runEnv_env _ _
end

/-! ## The bus -/

section
variable (s : State) (a : Word) (v : Byte)
@[simp] theorem busWrite_a : (s.busWrite a v).a = s.a := rfl
@[simp] theorem busWrite_f : (s.busWrite a v).f = s.f := rfl
@[simp] theorem busWrite_b : (s.busWrite a v).b = s.b := rfl
@[simp] theorem busWrite_c : (s.busWrite a v).c = s.c := rfl
@[simp] theorem busWrite_d : (s.busWrite a v).d = s.d := rfl
@[simp] theorem busWrite_e : (s.busWrite a v).e = s.e := rfl
@[simp] theorem busWrite_h : (s.busWrite a v).h = s.h := rfl
@[simp] theorem busWrite_l : (s.busWrite a v).l = s.l := rfl
@[simp] theorem busWrite_pc : (s.busWrite a v).pc = s.pc := rfl
@[simp] theorem busWrite_sp : (s.busWrite a v).sp = s.sp := rfl
@[simp] theorem busWrite_clock : (s.busWrite a v).clock = s.clock := rfl
@[simp] theorem busWrite_running : (s.busWrite a v).running = s.running := rfl
@[simp] theorem busWrite_stopped : (s.busWrite a v).stopped = s.stopped := rfl
@[simp] theorem busWrite_ime : (s.busWrite a v).ime = s.ime := rfl
@[simp] theorem busWrite_imeNext : (s.busWrite a v).imeNext = s.imeNext := rfl
@[simp] theorem busWrite_blocked : (s.busWrite a v).blocked = s.blocked := rfl
@[simp] theorem busWrite_execBp : (s.busWrite a v).execBp = s.execBp := rfl
@[simp] theorem busWrite_trapped : (s.busWrite a v).trapped = s.trapped := rfl
@[simp] theorem busWrite_trapResolved : (s.busWrite a v).trapResolved = s.trapResolved := rfl
@[simp] theorem busWrite_config : (s.busWrite a v).config = s.config := rfl
@[simp] theorem busWrite_env : (s.busWrite a v).env = s.env := rfl
@[simp] theorem busWrite_history : (s.busWrite a v).history = .write a v :: s.history := rfl
@[simp] theorem busWrite_reg (r : Reg8) : (s.busWrite a v).reg r = s.reg r := by cases r <;> rfl
@[simp] theorem busWrite_bc : (s.busWrite a v).bc = s.bc := rfl
@[simp] theorem busWrite_de : (s.busWrite a v).de = s.de := rfl
@[simp] theorem busWrite_hl : (s.busWrite a v).hl = s.hl := rfl
@[simp] theorem busWrite_highAddr (x : Byte) : (s.busWrite a v).highAddr x = s.highAddr x := rfl
/-- A read after a write to the same address returns the byte written (R61). -/
@[simp] theorem busWrite_peek_same : (s.busWrite a v).peek a = v := Memory.read_write_same _ _ _
/-- A write changes no other address (R61). -/
theorem busWrite_peek_other (x : Word) (h : x ≠ a) : (s.busWrite a v).peek x = s.peek x :=
  Memory.read_write_other _ _ _ _ (fun e => h (BitVec.eq_of_toNat_eq e))
@[simp] theorem busRead_fst : (s.busRead a).1 = s.peek a := rfl
@[simp] theorem busRead_snd : (s.busRead a).2 = s.record (.read a (s.peek a)) := rfl
end

/-! ## The timed helpers (rule R9), as sequences of bus events and ticks -/

section
variable (s : State) (a v : Word) (x : Byte)
@[simp] theorem cycle_eq : s.cycle = s.tick 4 := rfl
@[simp] theorem read8_fst : (s.read8 a).1 = s.peek a := rfl
@[simp] theorem read8_snd : (s.read8 a).2 = (s.record (.read a (s.peek a))).tick 4 := rfl
@[simp] theorem write8_eq : s.write8 a x = (s.busWrite a x).tick 4 := rfl
@[simp] theorem begin1_eq : s.begin1 = s.tick 4 := rfl
@[simp] theorem begin2_eq :
    s.begin2 = ((s.tick 4).record (.read (s.pc + 1) ((s.tick 4).peek (s.pc + 1)))).tick 4 := by
  simp [State.begin2, State.imm8Cycle]
@[simp] theorem begin3_eq :
    s.begin3 = (s.begin2.record (.read (s.pc + 2) (s.begin2.peek (s.pc + 2)))).tick 4 := by
  simp [State.begin3, State.imm16Cycles, State.begin2, State.imm8Cycle]
@[simp] theorem withRead_eq (k : Byte → State → State) :
    s.withRead a k = k (s.peek a) ((s.record (.read a (s.peek a))).tick 4) := rfl
end

@[simp] theorem word_sub_two (x : Word) : x - 1#16 - 1#16 = x - 2#16 := by bv_omega
@[simp] theorem word_add_two (x : Word) : x + 1#16 + 1#16 = x + 2#16 := by bv_omega
@[simp] theorem word_sub_one_ne_sub_two (x : Word) : x - 1#16 ≠ x - 2#16 := by bv_omega
@[simp] theorem word_ne_add_one (x : Word) : x ≠ x + 1#16 := by bv_omega

/-! ## The stack -/

section
variable (s : State) (v : Word)
/-- `Push16`, as bus events and ticks: the high byte at SP - 1, then the low byte at SP - 2 (R9, R26). -/
theorem push16_eq : s.push16 v =
    ((((((s.setSp (s.sp - 1)).busWrite (s.sp - 1) (hiByte v)).tick 4).setSp (s.sp - 2)).busWrite (s.sp - 2)
      (loByte v)).tick 4) := by
  simp [State.push16]

/-- The state in which `Pop16` reads its second byte. -/
def State.popMiddle (s : State) : State := ((s.record (.read s.sp (s.peek s.sp))).tick 4).setSp (s.sp + 1)

/-- `Pop16`, as bus events and ticks: the low byte at SP, then the high byte at SP + 1 (R9, R26). -/
theorem pop16_snd : s.pop16.2 =
    ((s.popMiddle.record (.read (s.sp + 1) (s.popMiddle.peek (s.sp + 1)))).tick 4).setSp (s.sp + 2) := by
  simp [State.pop16, State.popMiddle]
theorem pop16_fst : s.pop16.1 = mkWord (s.popMiddle.peek (s.sp + 1)) (s.peek s.sp) := by
  simp [State.pop16, State.popMiddle]
theorem popMiddle_eq : s.popMiddle = ((s.record (.read s.sp (s.peek s.sp))).tick 4).setSp (s.sp + 1) := rfl
end

/-! ## What an operation leaves alone, compositionally -/

/-- From `s` to `t` the clock does not go back, the configuration is kept and the environment's queue only shrinks. -/
def Later (s t : State) : Prop := s.clock ≤ t.clock ∧ t.config = s.config ∧ t.env <:+ s.env

@[simp] theorem later_self (s : State) : Later s s := ⟨Nat.le_refl _, rfl, List.suffix_refl _⟩

theorem Later.trans {s t w : State} (h : Later s t) (k : Later t w) : Later s w :=
  ⟨h.1.trans k.1, k.2.1.trans h.2.1, k.2.2.trans h.2.2⟩

@[simp] theorem later_tick {s t : State} (n : Nat) (h : Later s t) : Later s (t.tick n) :=
  h.trans ⟨by simp, by simp, tick_env t n⟩

/-- What the environment spares from `s` on it spares from a later state on. -/
theorem Later.spares {s t : State} (h : Later s t) {u : Nat} {a : Word} (hs : s.EnvSpares u a) : t.EnvSpares u a := by
  intro x hx hd
  rw [h.2.1]
  exact hs x (h.2.2.subset hx) hd

section
variable (s t : State)
@[simp] theorem later_record (ev : BusEvent) : Later s (t.record ev) ↔ Later s t := Iff.rfl
@[simp] theorem later_setPc (v : Word) : Later s (t.setPc v) ↔ Later s t := Iff.rfl
@[simp] theorem later_setSp (v : Word) : Later s (t.setSp v) ↔ Later s t := Iff.rfl
@[simp] theorem later_setF (v : Byte) : Later s (t.setF v) ↔ Later s t := Iff.rfl
@[simp] theorem later_setIme (v : Bool) : Later s (t.setIme v) ↔ Later s t := Iff.rfl
@[simp] theorem later_setImeNext (v : Bool) : Later s (t.setImeNext v) ↔ Later s t := Iff.rfl
@[simp] theorem later_setRunning (v : Bool) : Later s (t.setRunning v) ↔ Later s t := Iff.rfl
@[simp] theorem later_setStopped (v : Bool) : Later s (t.setStopped v) ↔ Later s t := Iff.rfl
@[simp] theorem later_busWrite (a : Word) (v : Byte) : Later s (t.busWrite a v) ↔ Later s t := Iff.rfl
@[simp] theorem later_setReg (r : Reg8) (v : Byte) : Later s (t.setReg r v) ↔ Later s t := by simp [Later]
end

/-- Moreover every byte outside `stored` that the environment does not write by `t`'s clock reads as before. -/
def Evolves (s t : State) (stored : List Word) : Prop :=
  Later s t ∧ ∀ a, a ∉ stored → ∀ u, t.clock ≤ u → s.EnvSpares u a → t.peek a = s.peek a

@[simp] theorem evolves_self (s : State) (stored : List Word) : Evolves s s stored :=
  ⟨later_self s, fun _ _ _ _ _ => rfl⟩

theorem Evolves.trans {s t w : State} {stored : List Word} (h : Evolves s t stored) (k : Evolves t w stored) :
    Evolves s w stored :=
  ⟨h.1.trans k.1, fun a ha u hu hs =>
    (k.2 a ha u hu (h.1.spares hs)).trans (h.2 a ha u (k.1.1.trans hu) hs)⟩

/-- One action of the environment does not change a byte it does not target. -/
theorem applyEnv_peek (x : EnvAction) (s : State) (a : Word) (h : x.target s.config ≠ some a) :
    (applyEnv x s).peek a = s.peek a := by
  cases x with
  | write b v =>
    refine Memory.read_write_other _ _ _ _ fun e => h ?_
    simp only [EnvAction.target, BitVec.eq_of_toNat_eq e]
  | raise i =>
    refine Memory.read_write_other _ _ _ _ fun e => h ?_
    simp only [EnvAction.target, BitVec.eq_of_toNat_eq e]
  | setBlocked b => rfl
  | wakeStop => rfl

theorem runEnv_peek (q : List TimedAction) (s : State) (a : Word)
    (h : ∀ x ∈ q, x.due ≤ s.clock → x.action.target s.config ≠ some a) : (runEnv q s).peek a = s.peek a := by
  induction q generalizing s with
  | nil => rfl
  | cons x rest ih =>
    unfold runEnv
    split
    · next hd =>
      have hc : (applyEnv x.action s).clock = s.clock := by cases x.action <;> rfl
      have hg : (applyEnv x.action s).config = s.config := by cases x.action <;> rfl
      rw [ih _ (by rw [hc, hg]; exact fun y hy => h y (by simp [hy])), applyEnv_peek _ _ _ (h x (by simp) hd)]
    · rfl

/-- A tick leaves a byte alone that the environment does not write by the clock it brings (R74). -/
theorem tick_peek (s : State) (n : Nat) (a : Word) (h : s.EnvSpares (s.clock + n) a) : (s.tick n).peek a = s.peek a :=
  runEnv_peek _ _ a h

theorem evolves_tick_self (s : State) (n : Nat) (stored : List Word) : Evolves s (s.tick n) stored :=
  ⟨by simp, fun a _ u hu hs => tick_peek s n a fun x hx hd =>
    hs x hx (hd.trans (by simpa using hu))⟩

@[simp] theorem evolves_tick {s t : State} {stored : List Word} (n : Nat) (h : Evolves s t stored) :
    Evolves s (t.tick n) stored := h.trans (evolves_tick_self t n stored)

@[simp] theorem evolves_busWrite {s t : State} {stored : List Word} (a : Word) (v : Byte) (ha : a ∈ stored)
    (h : Evolves s t stored) : Evolves s (t.busWrite a v) stored :=
  h.trans ⟨by simp, fun x hx _ _ _ =>
    busWrite_peek_other t a v x (fun e => hx (e ▸ ha))⟩

section
variable (s t : State) (stored : List Word)
@[simp] theorem evolves_record (ev : BusEvent) : Evolves s (t.record ev) stored ↔ Evolves s t stored := Iff.rfl
@[simp] theorem evolves_setPc (v : Word) : Evolves s (t.setPc v) stored ↔ Evolves s t stored := Iff.rfl
@[simp] theorem evolves_setSp (v : Word) : Evolves s (t.setSp v) stored ↔ Evolves s t stored := Iff.rfl
@[simp] theorem evolves_setF (v : Byte) : Evolves s (t.setF v) stored ↔ Evolves s t stored := Iff.rfl
@[simp] theorem evolves_setIme (v : Bool) : Evolves s (t.setIme v) stored ↔ Evolves s t stored := Iff.rfl
@[simp] theorem evolves_setImeNext (v : Bool) : Evolves s (t.setImeNext v) stored ↔ Evolves s t stored := Iff.rfl
@[simp] theorem evolves_setRunning (v : Bool) : Evolves s (t.setRunning v) stored ↔ Evolves s t stored := Iff.rfl
@[simp] theorem evolves_setStopped (v : Bool) : Evolves s (t.setStopped v) stored ↔ Evolves s t stored := Iff.rfl
@[simp] theorem evolves_setReg (r : Reg8) (v : Byte) : Evolves s (t.setReg r v) stored ↔ Evolves s t stored := by
  simp [Evolves]
end

/-- The memory clause of a frame. -/
theorem Evolves.keepsMemory {s t : State} {stored : List Word} (h : Evolves s t stored) : KeepsMemory s t stored :=
  fun a ha hs => h.2 a ha _ (Nat.le_refl _) hs

/-- The byte read in `t` is the byte held in `s`, where the environment spares it. -/
theorem Evolves.holds {s t : State} (h : Evolves s t []) (u : Nat) (hu : t.clock ≤ u) (a : Word) :
    s.Holds u a (t.peek a) := fun hs => h.2 a (by simp) u hu hs

/-- From `s` to `t`, where the environment is idle, its queue, `stopped` and `blocked` are kept. -/
def HeldOver (s t : State) : Prop :=
  s.clock ≤ t.clock ∧ ∀ u, t.clock ≤ u → s.EnvIdle u → t.env = s.env ∧ t.stopped = s.stopped ∧ t.blocked = s.blocked

theorem runEnv_idle (q : List TimedAction) (s : State) (h : ∀ x ∈ q, s.clock < x.due) : runEnv q s = { s with env := q } := by
  cases q with
  | nil => rfl
  | cons x rest =>
    have := h x (by simp)
    simp [runEnv, Nat.not_le.mpr this]

/-- Where the environment is idle a tick is only the clock and the event. -/
theorem tick_idle (s : State) (n : Nat) (h : s.EnvIdle (s.clock + n)) :
    s.tick n = { s with clock := s.clock + n, history := .tick n :: s.history } := by
  rw [State.tick, runEnv_idle]
  exact h

@[simp] theorem heldOver_self (s : State) : HeldOver s s := ⟨Nat.le_refl _, fun _ _ _ => ⟨rfl, rfl, rfl⟩⟩

@[simp] theorem heldOver_tick {s t : State} (n : Nat) (h : HeldOver s t) : HeldOver s (t.tick n) := by
  refine ⟨h.1.trans (by simp), fun u hu hi => ?_⟩
  rw [tick_clock] at hu
  obtain ⟨he, hs, hb⟩ := h.2 u (by omega) hi
  have hidle : t.EnvIdle (t.clock + n) := fun x hx => Nat.lt_of_le_of_lt hu (hi x (he ▸ hx))
  rw [tick_idle t n hidle]
  exact ⟨he, hs, hb⟩

section
variable (s t : State)
@[simp] theorem heldOver_record (ev : BusEvent) : HeldOver s (t.record ev) ↔ HeldOver s t := Iff.rfl
@[simp] theorem heldOver_setPc (v : Word) : HeldOver s (t.setPc v) ↔ HeldOver s t := Iff.rfl
@[simp] theorem heldOver_setSp (v : Word) : HeldOver s (t.setSp v) ↔ HeldOver s t := Iff.rfl
@[simp] theorem heldOver_setF (v : Byte) : HeldOver s (t.setF v) ↔ HeldOver s t := Iff.rfl
@[simp] theorem heldOver_setIme (v : Bool) : HeldOver s (t.setIme v) ↔ HeldOver s t := Iff.rfl
@[simp] theorem heldOver_setImeNext (v : Bool) : HeldOver s (t.setImeNext v) ↔ HeldOver s t := Iff.rfl
@[simp] theorem heldOver_setRunning (v : Bool) : HeldOver s (t.setRunning v) ↔ HeldOver s t := Iff.rfl
@[simp] theorem heldOver_busWrite (a : Word) (v : Byte) : HeldOver s (t.busWrite a v) ↔ HeldOver s t := Iff.rfl
@[simp] theorem heldOver_setReg (r : Reg8) (v : Byte) : HeldOver s (t.setReg r v) ↔ HeldOver s t := by simp [HeldOver]
end

/-- The holds clause of a frame. -/
theorem HeldOver.keepsHolds {s t : State} (h : HeldOver s t) : KeepsHolds s t := fun hi =>
  have k := h.2 _ (Nat.le_refl _) hi
  ⟨k.2.1, k.2.2, k.1⟩

/-- From `s` to `t` the byte `v` has come to stand at `a`, unless the environment writes there by `t`'s clock. -/
def Settles (s t : State) (a : Word) (v : Byte) : Prop :=
  Later s t ∧ ∀ u, t.clock ≤ u → s.EnvSpares u a → t.peek a = v

@[simp] theorem settles_busWrite {s t : State} (a : Word) (v : Byte) (h : Later s t) :
    Settles s (t.busWrite a v) a v := ⟨by simpa using h, fun _ _ _ => by simp⟩

theorem settles_busWrite_other {s t : State} (a b : Word) (v x : Byte) (hab : a ≠ b) (h : Settles s t a v) :
    Settles s (t.busWrite b x) a v :=
  ⟨by simpa using h.1, fun u hu hs => (busWrite_peek_other t b x a hab).trans (h.2 u hu hs)⟩

@[simp] theorem settles_tick {s t : State} (a : Word) (v : Byte) (n : Nat) (h : Settles s t a v) :
    Settles s (t.tick n) a v :=
  ⟨later_tick n h.1, fun u hu hs => by
    rw [tick_clock] at hu
    have ht : t.EnvSpares (t.clock + n) a := fun x hx hd => h.1.spares hs x hx (hd.trans hu)
    exact (tick_peek t n a ht).trans (h.2 u (by omega) hs)⟩

section
variable (s t : State) (a : Word) (v : Byte)
@[simp] theorem settles_record (ev : BusEvent) : Settles s (t.record ev) a v ↔ Settles s t a v := Iff.rfl
@[simp] theorem settles_setPc (x : Word) : Settles s (t.setPc x) a v ↔ Settles s t a v := Iff.rfl
@[simp] theorem settles_setSp (x : Word) : Settles s (t.setSp x) a v ↔ Settles s t a v := Iff.rfl
@[simp] theorem settles_setF (x : Byte) : Settles s (t.setF x) a v ↔ Settles s t a v := Iff.rfl
@[simp] theorem settles_setIme (x : Bool) : Settles s (t.setIme x) a v ↔ Settles s t a v := Iff.rfl
@[simp] theorem settles_setImeNext (x : Bool) : Settles s (t.setImeNext x) a v ↔ Settles s t a v := Iff.rfl
@[simp] theorem settles_setRunning (x : Bool) : Settles s (t.setRunning x) a v ↔ Settles s t a v := Iff.rfl
@[simp] theorem settles_setReg (r : Reg8) (x : Byte) : Settles s (t.setReg r x) a v ↔ Settles s t a v := by simp [Settles]
end

/-- The byte read after the opcode is the one memory holds, unless the environment writes it first (R72, R92). -/
theorem readsSecondByte_tick (s : State) : ReadsSecondByte s ((s.tick 4).peek (s.pc + 1)) :=
  Evolves.holds (evolves_tick 4 (evolves_self s [])) _ (Nat.le_of_eq (tick_clock s 4)) _

/-- The two bytes of a 16-bit immediate are those memory holds, unless the environment writes them first (R72, R92). -/
theorem readsBothBytes_begin2 (s : State) :
    ReadsBothBytes s ((s.tick 4).peek (s.pc + 1)) (s.begin2.peek (s.pc + 2)) := by
  refine ⟨readsSecondByte_tick s, Evolves.holds ?_ _ (by simp) _⟩
  rw [begin2_eq]
  exact evolves_tick 4 (evolves_tick 4 (evolves_self s []))

/-- A frame, from its four parts. -/
theorem frame_of {s t : State} {except : List Reg8} {stored : List Word} (hr : KeepsRegs s t except) (hc : KeepsControl s t)
    (hh : HeldOver s t) (he : Evolves s t stored) : Frame s t except stored :=
  ⟨hr, hc, hh.keepsHolds, he.keepsMemory⟩

/-- The store clause of a frame. -/
theorem Settles.stores {s t : State} {a : Word} {v : Byte} (h : Settles s t a v) : Stores s t a v :=
  fun hs => h.2 _ (Nat.le_refl _) hs

end Sys2Proof.Machine
end

