-- ==== Sys2Proof/Laws/Exec.lean ====
section
/-! SUPPORT. What `exec` can do: it always answers a next state, built from the shared operations alone; and the prefixed pair is
its secondary instruction. -/

namespace Sys2Proof.Machine

/-! ## The prefix (rule R313) -/

/-- The entries of the secondary table are the secondary instructions. -/
def isSecondary (i : Instr) : Bool := (secondaryMeaning i State.reset).isSome

theorem secondaryMeaning_exec (i : Instr) (s : State) (h : isSecondary i = true) :
    secondaryMeaning i s = some (exec i s) := by
  cases i <;> first | rfl | simp [isSecondary, secondaryMeaning] at h

/-- All 256 secondary entries are defined (R98). -/
theorem secondary_complete : ∀ op2 : Byte, ((secondaryEntry op2).map isSecondary) = some true := by decide +kernel

theorem secondaryEntry_isSecondary (op2 : Byte) : ∃ i, secondaryEntry op2 = some i ∧ isSecondary i = true := by
  have h := secondary_complete op2
  cases hi : secondaryEntry op2 with
  | none => simp [hi] at h
  | some i => exact ⟨i, rfl, by simpa [hi] using h⟩

/-- The prefix performs the secondary entry (R313). -/
theorem exec_prefixCb (op2 : Byte) (s : State) (i : Instr) (h : secondaryEntry op2 = some i) :
    exec (.prefixCb op2) s = exec i s := by
  obtain ⟨j, hj, hs⟩ := secondaryEntry_isSecondary op2
  obtain rfl : i = j := Option.some.inj (h.symm.trans hj)
  show execPrefixCb op2 s = _
  rw [execPrefixCb, hj, Option.bind_some, secondaryMeaning_exec i s hs]

theorem isSecondary_ne_prefix {i : Instr} (h : isSecondary i = true) (op2 : Byte) : i ≠ .prefixCb op2 := by
  rintro rfl; simp [isSecondary, secondaryMeaning] at h

/-- The entry a fetch selects has the effect of the instruction it performs (R100, R313). -/
theorem exec_of_resolvePrefix {i j : Instr} (s : State) (h : resolvePrefix i = some j) : exec i s = exec j s := by
  by_cases hp : ∃ x, i = .prefixCb x
  · obtain ⟨x, rfl⟩ := hp
    exact exec_prefixCb x s j h
  · have hi : resolvePrefix i = some i := by cases i <;> first | rfl | (exact absurd ⟨_, rfl⟩ hp)
    rw [hi] at h
    cases h
    rfl

/-! ## Every instruction answers a next state, built from the shared operations -/

/-- A property that every shared operation keeps. -/
structure Closed (P : State → Prop) : Prop where
  read : ∀ s a, P s → P (s.record (.read a (s.peek a)))
  write : ∀ s a v, P s → P (s.busWrite a v)
  tick : ∀ s n, P s → P (s.tick n)
  setReg : ∀ s r v, P s → P (s.setReg r v)
  setF : ∀ s v, P s → P (s.setF v)
  setPc : ∀ s v, P s → P (s.setPc v)
  setSp : ∀ s v, P s → P (s.setSp v)
  setIme : ∀ s v, P s → P (s.setIme v)
  setImeNext : ∀ s v, P s → P (s.setImeNext v)
  setRunning : ∀ s v, P s → P (s.setRunning v)
  setStopped : ∀ s v, P s → P (s.setStopped v)

section
variable {P : State → Prop} (hP : Closed P)
include hP

theorem Closed.begin2 {s : State} (h : P s) : P s.begin2 := by
  rw [begin2_eq]
  have := hP.tick _ 4 (hP.read _ (s.pc + 1) (hP.tick s 4 h))
  simpa using this

theorem Closed.begin3 {s : State} (h : P s) : P s.begin3 := by
  rw [begin3_eq]
  exact hP.tick _ _ (hP.read _ _ (hP.begin2 h))

theorem Closed.push16 {s : State} (v : Word) (h : P s) : P (s.push16 v) := by
  rw [push16_eq]
  exact hP.tick _ _ (hP.write _ _ _ (hP.setSp _ _ (hP.tick _ _ (hP.write _ _ _ (hP.setSp _ _ h)))))

theorem Closed.pop16 {s : State} (h : P s) : P s.pop16.2 := by
  rw [pop16_snd, popMiddle_eq]
  exact hP.setSp _ _ (hP.tick _ _ (hP.read _ _ (hP.setSp _ _ (hP.tick _ _ (hP.read _ _ h)))))

theorem Closed.setPair16 {s : State} (p : Pair16) (v : Word) (h : P s) : P (s.setPair16 p v) := by
  cases p <;> simp only [State.setPair16, setBc_eq, setDe_eq, setHl_eq] <;>
    first | exact hP.setSp _ _ h | exact hP.setReg _ _ _ (hP.setReg _ _ _ h)

theorem Closed.setPairStk {s : State} (p : PairStk) (v : Word) (h : P s) : P (s.setPairStk p v) := by
  cases p <;> simp only [State.setPairStk, setBc_eq, setDe_eq, setHl_eq, setAf_eq] <;>
    first | exact hP.setF _ _ (hP.setReg _ _ _ h) | exact hP.setReg _ _ _ (hP.setReg _ _ _ h)

theorem Closed.setHl {s : State} (v : Word) (h : P s) : P (s.setHl v) := hP.setReg _ _ _ (hP.setReg _ _ _ h)

theorem Closed.withRead {s : State} (a : Word) (k : Byte → State → State) (h : P s) (hk : ∀ x t, P t → P (k x t)) :
    P (s.withRead a k) := by
  rw [withRead_eq]
  exact hk _ _ (hP.tick _ _ (hP.read _ _ h))

theorem Closed.accumulate {s : State} (op : AccOp) (v : Byte) (n : Nat) (h : P s) : P (s.accumulate op v n) :=
  hP.setPc _ _ (hP.setF _ _ (hP.setReg _ _ _ h))

theorem Closed.compare {s : State} (op : AccOp) (v : Byte) (n : Nat) (h : P s) : P (s.compare op v n) :=
  hP.setPc _ _ (hP.setF _ _ h)

theorem Closed.shiftReg {s : State} (op : Byte → Bool → Byte × Bool) (r : Reg8) (h : P s) : P (s.shiftReg op r) :=
  hP.setPc _ _ (hP.setF _ _ (hP.setReg _ _ _ h))

theorem Closed.rotateAcc {s : State} (op : Byte → Bool → Byte × Bool) (h : P s) : P (s.rotateAcc op) :=
  hP.setPc _ _ (hP.setF _ _ (hP.setReg _ _ _ h))

theorem Closed.shiftHl {s : State} (op : Byte → Bool → Byte × Bool) (h : P s) : P (s.shiftHl op) :=
  hP.withRead _ _ h fun _ _ ht => hP.setPc _ _ (hP.tick _ _ (hP.write _ _ _ (hP.setF _ _ ht)))

theorem Closed.returnFromInterrupt {s : State} (h : P s) : P s.returnFromInterrupt :=
  hP.setIme _ _ (hP.setImeNext _ _ (hP.setPc _ _ (hP.tick _ _ (hP.pop16 h))))

/-- Taking an interrupt keeps what every shared operation keeps. -/
theorem Closed.takeInterrupt {s : State} (i : Nat) (x : Byte) (h : P s) : P (s.takeInterrupt i x) :=
  hP.tick _ _ (hP.setPc _ _ (hP.push16 _ (hP.tick _ _ (hP.setImeNext _ _ (hP.setIme _ _ (hP.write _ _ _ h))))))

/-- What every shared operation keeps, every instruction of the tables other than the prefix keeps, and it answers a next state. -/
theorem Closed.exec_of_ne_prefix {s : State} (i : Instr) (hi : ∀ op2, i ≠ .prefixCb op2) (h : P s) :
    ∃ t, exec i s = .next t ∧ P t := by
  have h1 : P s.begin1 := hP.tick s 4 h
  have h2 : P s.begin2 := hP.begin2 h
  have h3 : P s.begin3 := hP.begin3 h
  cases i with
  | prefixCb op2 => exact absurd rfl (hi op2)
  | jpCcA16 cc a =>
    by_cases hc : condHolds cc s.begin3.f = true
    · exact ⟨_, if_pos hc, hP.setPc _ _ (hP.tick _ _ h3)⟩
    · exact ⟨_, if_neg hc, hP.setPc _ _ h3⟩
  | jrCcE8 cc e =>
    by_cases hc : condHolds cc s.begin2.f = true
    · exact ⟨_, if_pos hc, hP.setPc _ _ (hP.tick _ _ h2)⟩
    · exact ⟨_, if_neg hc, hP.setPc _ _ h2⟩
  | callCcA16 cc a =>
    by_cases hc : condHolds cc s.begin3.f = true
    · exact ⟨_, if_pos hc, hP.setPc _ _ (hP.push16 _ (hP.tick _ _ h3))⟩
    · exact ⟨_, if_neg hc, hP.setPc _ _ h3⟩
  | retCc cc =>
    by_cases hc : condHolds cc s.begin1.cycle.f = true
    · exact ⟨_, if_pos hc, hP.setPc _ _ (hP.tick _ _ (hP.pop16 (hP.tick _ _ h1)))⟩
    · exact ⟨_, if_neg hc, hP.setPc _ _ (hP.tick _ _ h1)⟩
  | undefD3 | undefDB | undefDD | undefE3 | undefE4 | undefEB | undefEC | undefED | undefF4 | undefFC | undefFD =>
    exact ⟨_, rfl, hP.setPc _ _ (hP.tick _ _ h)⟩
  | ldRrD16 p v => exact ⟨_, rfl, hP.setPc _ _ (hP.setPair16 _ _ h3)⟩
  | incRr p | decRr p => exact ⟨_, rfl, hP.setPc _ _ (hP.tick _ _ (hP.setPair16 _ _ h1))⟩
  | addHlRr p => exact ⟨_, rfl, hP.setPc _ _ (hP.tick _ _ (hP.setF _ _ (hP.setHl _ h1)))⟩
  | ldHlSpE8 e => exact ⟨_, rfl, hP.setPc _ _ (hP.tick _ _ (hP.setHl _ (hP.setF _ _ h2)))⟩
  | popRr p => exact ⟨_, rfl, hP.setPc _ _ (hP.setPairStk _ _ (hP.pop16 h1))⟩
  | popAf => exact ⟨_, rfl, hP.setPc _ _ (hP.setF _ _ (hP.setReg _ _ _ (hP.pop16 h1)))⟩
  | pushRr p => exact ⟨_, rfl, hP.setPc _ _ (hP.push16 _ (hP.tick _ _ h1))⟩
  | callA16 a => exact ⟨_, rfl, hP.setPc _ _ (hP.push16 _ (hP.tick _ _ h3))⟩
  | rst n => exact ⟨_, rfl, hP.setPc _ _ (hP.push16 _ (hP.tick _ _ h1))⟩
  | ret => exact ⟨_, rfl, hP.setPc _ _ (hP.tick _ _ (hP.pop16 h1))⟩
  | reti => exact ⟨_, rfl, hP.returnFromInterrupt h1⟩
  | ldAHli | ldAHld => exact ⟨_, rfl, hP.withRead _ _ h1 fun _ _ ht => hP.setPc _ _ (hP.setHl _ (hP.setReg _ _ _ ht))⟩
  | ldHliA | ldHldA => exact ⟨_, rfl, hP.setPc _ _ (hP.setHl _ (hP.tick _ _ (hP.write _ _ _ h1)))⟩
  | incHl | decHl =>
    exact ⟨_, rfl, hP.withRead _ _ h1 fun _ _ ht => hP.setPc _ _ (hP.tick _ _ (hP.write _ _ _ (hP.setF _ _ ht)))⟩
  | addAHl | adcAHl | subHl | sbcAHl | andHl | xorHl | orHl =>
    exact ⟨_, rfl, hP.withRead _ _ h1 fun _ _ ht => hP.accumulate _ _ _ ht⟩
  | cpHl => exact ⟨_, rfl, hP.withRead _ _ h1 fun _ _ ht => hP.compare _ _ _ ht⟩
  | addAR r | adcAR r | subR r | sbcAR r | andR r | xorR r | orR r => exact ⟨_, rfl, hP.accumulate _ _ _ h1⟩
  | addAD8 n | adcAD8 n | subD8 n | sbcAD8 n | andD8 n | xorD8 n | orD8 n => exact ⟨_, rfl, hP.accumulate _ _ _ h2⟩
  | cpR r => exact ⟨_, rfl, hP.compare _ _ _ h1⟩
  | cpD8 n => exact ⟨_, rfl, hP.compare _ _ _ h2⟩
  | rlca | rrca | rla | rra => exact ⟨_, rfl, hP.rotateAcc _ h1⟩
  | rlcR r | rrcR r | rlR r | rrR r | slaR r | sraR r | swapR r | srlR r => exact ⟨_, rfl, hP.shiftReg _ _ h2⟩
  | rlcHl | rrcHl | rlHl | rrHl | slaHl | sraHl | swapHl | srlHl => exact ⟨_, rfl, hP.shiftHl _ h2⟩
  | bitBHl n => exact ⟨_, rfl, hP.withRead _ _ h2 fun _ _ ht => hP.setPc _ _ (hP.setF _ _ ht)⟩
  | resBHl n | setBHl n =>
    exact ⟨_, rfl, hP.withRead _ _ h2 fun _ _ ht => hP.setPc _ _ (hP.tick _ _ (hP.write _ _ _ ht))⟩
  | ldRHl dst | ldABc | ldADe | ldAC =>
    exact ⟨_, rfl, hP.withRead _ _ h1 fun _ _ ht => hP.setPc _ _ (hP.setReg _ _ _ ht)⟩
  | ldhAA8 n => exact ⟨_, rfl, hP.withRead _ _ h2 fun _ _ ht => hP.setPc _ _ (hP.setReg _ _ _ ht)⟩
  | ldAA16 a => exact ⟨_, rfl, hP.withRead _ _ h3 fun _ _ ht => hP.setPc _ _ (hP.setReg _ _ _ ht)⟩
  | ldHlR r | ldBcA | ldDeA | ldCA => exact ⟨_, rfl, hP.setPc _ _ (hP.tick _ _ (hP.write _ _ _ h1))⟩
  | ldHlD8 n | ldhA8A n => exact ⟨_, rfl, hP.setPc _ _ (hP.tick _ _ (hP.write _ _ _ h2))⟩
  | ldA16A a => exact ⟨_, rfl, hP.setPc _ _ (hP.tick _ _ (hP.write _ _ _ h3))⟩
  | ldA16Sp a =>
    exact ⟨_, rfl, hP.setPc _ _ (hP.tick _ _ (hP.write _ _ _ (hP.tick _ _ (hP.write _ _ _ h3))))⟩
  | ldRR dst src => exact ⟨_, rfl, hP.setPc _ _ (hP.setReg _ _ _ h1)⟩
  | ldRD8 r n | resBR n r | setBR n r => exact ⟨_, rfl, hP.setPc _ _ (hP.setReg _ _ _ h2)⟩
  | bitBR n r => exact ⟨_, rfl, hP.setPc _ _ (hP.setF _ _ h2)⟩
  | incR r | decR r | daa | cpl => exact ⟨_, rfl, hP.setPc _ _ (hP.setF _ _ (hP.setReg _ _ _ h1))⟩
  | scf | ccf => exact ⟨_, rfl, hP.setPc _ _ (hP.setF _ _ h1)⟩
  | ldSpHl => exact ⟨_, rfl, hP.setPc _ _ (hP.tick _ _ (hP.setSp _ _ h1))⟩
  | addSpE8 e => exact ⟨_, rfl, hP.setPc _ _ (hP.setSp _ _ (hP.tick _ _ (hP.tick _ _ (hP.setF _ _ h2))))⟩
  | jpA16 a => exact ⟨_, rfl, hP.setPc _ _ (hP.tick _ _ h3)⟩
  | jrE8 e => exact ⟨_, rfl, hP.setPc _ _ (hP.tick _ _ h2)⟩
  | jpHl | nop => exact ⟨_, rfl, hP.setPc _ _ h1⟩
  | di => exact ⟨_, rfl, hP.setPc _ _ (hP.setIme _ _ (hP.setImeNext _ _ h1))⟩
  | ei => exact ⟨_, rfl, hP.setPc _ _ (hP.setImeNext _ _ h1)⟩
  | halt => exact ⟨_, rfl, hP.setPc _ _ (hP.setRunning _ _ h1)⟩
  | stop => exact ⟨_, rfl, hP.setPc _ _ (hP.setStopped _ _ h1)⟩

/-- What every shared operation keeps, `exec` keeps. -/
theorem Closed.exec {s t : State} {i : Instr} (hx : exec i s = .next t) (h : P s) : P t := by
  have key : ∃ u, Machine.exec i s = .next u ∧ P u := by
    by_cases hi : ∃ op2, i = .prefixCb op2
    · obtain ⟨op2, rfl⟩ := hi
      obtain ⟨j, hj, hs⟩ := secondaryEntry_isSecondary op2
      rw [exec_prefixCb op2 s j hj]
      exact hP.exec_of_ne_prefix j (isSecondary_ne_prefix hs) h
    · exact hP.exec_of_ne_prefix i (fun op2 e => hi ⟨op2, e⟩) h
  obtain ⟨u, hu, hp⟩ := key
  obtain rfl : t = u := Host.Outcome.next.inj (hx.symm.trans hu)
  exact hp

end

end Sys2Proof.Machine
end

