-- ==== Sys2Proof/Laws/PerInstr.lean ====
section
/-! SUPPORT. One lemma per instruction, for the statements about the instruction as syntax: family Length says that the
encoding of an instruction has the length its first byte announces (rules R90, R91). -/

namespace Sys2Proof.Laws.Length
set_option Elab.async false

/-- The encoding of an instruction is as long as the decoder takes from its first byte (R91). -/
def Statement (i : Instr) : Prop := (encode i).length = lengthOf ((encode i).headD 0)

/-- "The first byte 0xCB always gives length 2, whatever the second byte" (R91). -/
theorem lengthOf_prefix : 2 = lengthOf prefixByte := by decide +kernel

theorem undefD3 : Statement .undefD3 := by unfold Statement; decide +kernel
theorem undefDB : Statement .undefDB := by unfold Statement; decide +kernel
theorem undefDD : Statement .undefDD := by unfold Statement; decide +kernel
theorem undefE3 : Statement .undefE3 := by unfold Statement; decide +kernel
theorem undefE4 : Statement .undefE4 := by unfold Statement; decide +kernel
theorem undefEB : Statement .undefEB := by unfold Statement; decide +kernel
theorem undefEC : Statement .undefEC := by unfold Statement; decide +kernel
theorem undefED : Statement .undefED := by unfold Statement; decide +kernel
theorem undefF4 : Statement .undefF4 := by unfold Statement; decide +kernel
theorem undefFC : Statement .undefFC := by unfold Statement; decide +kernel
theorem undefFD : Statement .undefFD := by unfold Statement; decide +kernel
theorem nop : Statement .nop := by unfold Statement; decide +kernel
theorem ldRrD16 (p : Pair16) (v : Word) : Statement (.ldRrD16 p v) := by
  cases p <;> (simp only [Statement, encode, List.length, List.headD]; decide +kernel)
theorem ldBcA : Statement .ldBcA := by unfold Statement; decide +kernel
theorem ldDeA : Statement .ldDeA := by unfold Statement; decide +kernel
theorem ldHliA : Statement .ldHliA := by unfold Statement; decide +kernel
theorem ldHldA : Statement .ldHldA := by unfold Statement; decide +kernel
theorem ldABc : Statement .ldABc := by unfold Statement; decide +kernel
theorem ldADe : Statement .ldADe := by unfold Statement; decide +kernel
theorem ldAHli : Statement .ldAHli := by unfold Statement; decide +kernel
theorem ldAHld : Statement .ldAHld := by unfold Statement; decide +kernel
theorem incRr (p : Pair16) : Statement (.incRr p) := by
  cases p <;> (unfold Statement; decide +kernel)
theorem decRr (p : Pair16) : Statement (.decRr p) := by
  cases p <;> (unfold Statement; decide +kernel)
theorem addHlRr (p : Pair16) : Statement (.addHlRr p) := by
  cases p <;> (unfold Statement; decide +kernel)
theorem incR (r : Reg8) : Statement (.incR r) := by
  cases r <;> (unfold Statement; decide +kernel)
theorem incHl : Statement .incHl := by unfold Statement; decide +kernel
theorem decR (r : Reg8) : Statement (.decR r) := by
  cases r <;> (unfold Statement; decide +kernel)
theorem decHl : Statement .decHl := by unfold Statement; decide +kernel
theorem ldRD8 (r : Reg8) (n : Byte) : Statement (.ldRD8 r n) := by
  cases r <;> (simp only [Statement, encode, List.length, List.headD]; decide +kernel)
theorem ldHlD8 (n : Byte) : Statement (.ldHlD8 n) := by simp only [Statement, encode, List.length, List.headD]; decide +kernel
theorem rlca : Statement .rlca := by unfold Statement; decide +kernel
theorem rrca : Statement .rrca := by unfold Statement; decide +kernel
theorem rla : Statement .rla := by unfold Statement; decide +kernel
theorem rra : Statement .rra := by unfold Statement; decide +kernel
theorem daa : Statement .daa := by unfold Statement; decide +kernel
theorem cpl : Statement .cpl := by unfold Statement; decide +kernel
theorem scf : Statement .scf := by unfold Statement; decide +kernel
theorem ccf : Statement .ccf := by unfold Statement; decide +kernel
theorem ldA16Sp (a : Word) : Statement (.ldA16Sp a) := by simp only [Statement, encode, List.length, List.headD]; decide +kernel
theorem stop : Statement .stop := by unfold Statement; decide +kernel
theorem jrE8 (e : Byte) : Statement (.jrE8 e) := by simp only [Statement, encode, List.length, List.headD]; decide +kernel
theorem jrCcE8 (cc : Cond) (e : Byte) : Statement (.jrCcE8 cc e) := by
  cases cc <;> (simp only [Statement, encode, List.length, List.headD]; decide +kernel)
theorem ldRR (dst : Reg8) (src : Reg8) : Statement (.ldRR dst src) := by
  cases dst <;> cases src <;> (unfold Statement; decide +kernel)
theorem ldRHl (dst : Reg8) : Statement (.ldRHl dst) := by
  cases dst <;> (unfold Statement; decide +kernel)
theorem ldHlR (src : Reg8) : Statement (.ldHlR src) := by
  cases src <;> (unfold Statement; decide +kernel)
theorem halt : Statement .halt := by unfold Statement; decide +kernel
theorem addAR (r : Reg8) : Statement (.addAR r) := by
  cases r <;> (unfold Statement; decide +kernel)
theorem addAHl : Statement .addAHl := by unfold Statement; decide +kernel
theorem adcAR (r : Reg8) : Statement (.adcAR r) := by
  cases r <;> (unfold Statement; decide +kernel)
theorem adcAHl : Statement .adcAHl := by unfold Statement; decide +kernel
theorem subR (r : Reg8) : Statement (.subR r) := by
  cases r <;> (unfold Statement; decide +kernel)
theorem subHl : Statement .subHl := by unfold Statement; decide +kernel
theorem sbcAR (r : Reg8) : Statement (.sbcAR r) := by
  cases r <;> (unfold Statement; decide +kernel)
theorem sbcAHl : Statement .sbcAHl := by unfold Statement; decide +kernel
theorem andR (r : Reg8) : Statement (.andR r) := by
  cases r <;> (unfold Statement; decide +kernel)
theorem andHl : Statement .andHl := by unfold Statement; decide +kernel
theorem xorR (r : Reg8) : Statement (.xorR r) := by
  cases r <;> (unfold Statement; decide +kernel)
theorem xorHl : Statement .xorHl := by unfold Statement; decide +kernel
theorem orR (r : Reg8) : Statement (.orR r) := by
  cases r <;> (unfold Statement; decide +kernel)
theorem orHl : Statement .orHl := by unfold Statement; decide +kernel
theorem cpR (r : Reg8) : Statement (.cpR r) := by
  cases r <;> (unfold Statement; decide +kernel)
theorem cpHl : Statement .cpHl := by unfold Statement; decide +kernel
theorem addAD8 (n : Byte) : Statement (.addAD8 n) := by simp only [Statement, encode, List.length, List.headD]; decide +kernel
theorem adcAD8 (n : Byte) : Statement (.adcAD8 n) := by simp only [Statement, encode, List.length, List.headD]; decide +kernel
theorem subD8 (n : Byte) : Statement (.subD8 n) := by simp only [Statement, encode, List.length, List.headD]; decide +kernel
theorem sbcAD8 (n : Byte) : Statement (.sbcAD8 n) := by simp only [Statement, encode, List.length, List.headD]; decide +kernel
theorem andD8 (n : Byte) : Statement (.andD8 n) := by simp only [Statement, encode, List.length, List.headD]; decide +kernel
theorem xorD8 (n : Byte) : Statement (.xorD8 n) := by simp only [Statement, encode, List.length, List.headD]; decide +kernel
theorem orD8 (n : Byte) : Statement (.orD8 n) := by simp only [Statement, encode, List.length, List.headD]; decide +kernel
theorem cpD8 (n : Byte) : Statement (.cpD8 n) := by simp only [Statement, encode, List.length, List.headD]; decide +kernel
theorem retCc (cc : Cond) : Statement (.retCc cc) := by
  cases cc <;> (unfold Statement; decide +kernel)
theorem popRr (p : PairStk) : Statement (.popRr p) := by
  cases p <;> (unfold Statement; decide +kernel)
theorem popAf : Statement .popAf := by unfold Statement; decide +kernel
theorem jpCcA16 (cc : Cond) (a : Word) : Statement (.jpCcA16 cc a) := by
  cases cc <;> (simp only [Statement, encode, List.length, List.headD]; decide +kernel)
theorem jpA16 (a : Word) : Statement (.jpA16 a) := by simp only [Statement, encode, List.length, List.headD]; decide +kernel
theorem callCcA16 (cc : Cond) (a : Word) : Statement (.callCcA16 cc a) := by
  cases cc <;> (simp only [Statement, encode, List.length, List.headD]; decide +kernel)
theorem pushRr (p : PairStk) : Statement (.pushRr p) := by
  cases p <;> (unfold Statement; decide +kernel)
theorem rst (t : BitVec 3) : Statement (.rst t) := by revert t; unfold Statement; decide +kernel
theorem ret : Statement .ret := by unfold Statement; decide +kernel
theorem reti : Statement .reti := by unfold Statement; decide +kernel
theorem prefixCb (op2 : Byte) : Statement (.prefixCb op2) := lengthOf_prefix
theorem callA16 (a : Word) : Statement (.callA16 a) := by simp only [Statement, encode, List.length, List.headD]; decide +kernel
theorem ldhA8A (n : Byte) : Statement (.ldhA8A n) := by simp only [Statement, encode, List.length, List.headD]; decide +kernel
theorem ldhAA8 (n : Byte) : Statement (.ldhAA8 n) := by simp only [Statement, encode, List.length, List.headD]; decide +kernel
theorem ldCA : Statement .ldCA := by unfold Statement; decide +kernel
theorem ldAC : Statement .ldAC := by unfold Statement; decide +kernel
theorem addSpE8 (e : Byte) : Statement (.addSpE8 e) := by simp only [Statement, encode, List.length, List.headD]; decide +kernel
theorem ldHlSpE8 (e : Byte) : Statement (.ldHlSpE8 e) := by simp only [Statement, encode, List.length, List.headD]; decide +kernel
theorem jpHl : Statement .jpHl := by unfold Statement; decide +kernel
theorem ldSpHl : Statement .ldSpHl := by unfold Statement; decide +kernel
theorem ldA16A (a : Word) : Statement (.ldA16A a) := by simp only [Statement, encode, List.length, List.headD]; decide +kernel
theorem ldAA16 (a : Word) : Statement (.ldAA16 a) := by simp only [Statement, encode, List.length, List.headD]; decide +kernel
theorem di : Statement .di := by unfold Statement; decide +kernel
theorem ei : Statement .ei := by unfold Statement; decide +kernel
theorem rlcR (r : Reg8) : Statement (.rlcR r) := lengthOf_prefix
theorem rlcHl : Statement .rlcHl := lengthOf_prefix
theorem rrcR (r : Reg8) : Statement (.rrcR r) := lengthOf_prefix
theorem rrcHl : Statement .rrcHl := lengthOf_prefix
theorem rlR (r : Reg8) : Statement (.rlR r) := lengthOf_prefix
theorem rlHl : Statement .rlHl := lengthOf_prefix
theorem rrR (r : Reg8) : Statement (.rrR r) := lengthOf_prefix
theorem rrHl : Statement .rrHl := lengthOf_prefix
theorem slaR (r : Reg8) : Statement (.slaR r) := lengthOf_prefix
theorem slaHl : Statement .slaHl := lengthOf_prefix
theorem sraR (r : Reg8) : Statement (.sraR r) := lengthOf_prefix
theorem sraHl : Statement .sraHl := lengthOf_prefix
theorem swapR (r : Reg8) : Statement (.swapR r) := lengthOf_prefix
theorem swapHl : Statement .swapHl := lengthOf_prefix
theorem srlR (r : Reg8) : Statement (.srlR r) := lengthOf_prefix
theorem srlHl : Statement .srlHl := lengthOf_prefix
theorem bitBR (n : BitVec 3) (r : Reg8) : Statement (.bitBR n r) := lengthOf_prefix
theorem bitBHl (n : BitVec 3) : Statement (.bitBHl n) := lengthOf_prefix
theorem resBR (n : BitVec 3) (r : Reg8) : Statement (.resBR n r) := lengthOf_prefix
theorem resBHl (n : BitVec 3) : Statement (.resBHl n) := lengthOf_prefix
theorem setBR (n : BitVec 3) (r : Reg8) : Statement (.setBR n r) := lengthOf_prefix
theorem setBHl (n : BitVec 3) : Statement (.setBHl n) := lengthOf_prefix

end Sys2Proof.Laws.Length
end

