-- ==== Sys2Proof/Laws/Step.lean ====
section
/-! SUPPORT. What a step can do (rule R343), said once; and what every step keeps. -/

namespace Sys2Proof.Machine

@[simp] theorem idle_eq (s : State) : s.idle = s.tick s.config.idleTick := rfl
@[simp] theorem commit_eq (s : State) : s.commit = s.setIme s.imeNext := rfl
@[simp] theorem opcodeRead_eq (s : State) : s.opcodeRead = s.record (.read s.pc (s.peek s.pc)) := rfl
theorem pollReads_eq (s : State) :
    s.pollReads = (s.record (.read s.config.ieAddr (s.peek s.config.ieAddr))).record
      (.read s.config.ifAddr (s.peek s.config.ifAddr)) := rfl

/-- "The least i with m[i] = 1" (R346). -/
theorem lowestSource_some (m : Byte) (i : Nat) :
    lowestSource m = some i ↔ i < 8 ∧ m.getLsbD i = true ∧ ∀ j, j < i → m.getLsbD j = false := by
  constructor
  · intro h
    obtain ⟨hi, xs, ys, hxy, hno⟩ := List.find?_eq_some_iff_append.mp h
    have hm : i ∈ List.range 8 := hxy ▸ by simp
    have hi8 := List.mem_range.mp hm
    refine ⟨hi8, hi, fun j hj => ?_⟩
    have hjm : j ∈ xs := by
      have hp : (List.range 8).Pairwise (· < ·) := List.pairwise_lt_range
      have hj8 : j ∈ List.range 8 := List.mem_range.mpr (by omega)
      rw [hxy] at hj8 hp
      rcases List.mem_append.mp hj8 with hx | hx
      · exact hx
      · rcases List.mem_cons.mp hx with rfl | hx
        · omega
        · have := (List.pairwise_cons.mp (List.pairwise_append.mp hp).2.1).1 j hx
          omega
    simpa using hno j hjm
  · rintro ⟨hi, hb, hl⟩
    have key : ∀ k, k ≤ 8 → i < k → (List.range k).find? (fun j => m.getLsbD j) = some i := by
      intro k
      induction k with
      | zero => intro _ h; omega
      | succ k ih =>
        intro hk hik
        rw [List.range_succ, List.find?_append]
        by_cases hik' : i < k
        · rw [ih (by omega) hik']; rfl
        · obtain rfl : i = k := by omega
          have hn : (List.range i).find? (fun j => m.getLsbD j) = none := by
            rw [List.find?_eq_none]
            intro j hj
            simpa using hl j (List.mem_range.mp hj)
          simp [hn, hb]
    exact key 8 (Nat.le_refl _) hi

/-- No source is selected exactly when the mask is zero. -/
theorem lowestSource_none (m : Byte) : lowestSource m = none ↔ m = 0 := by
  rw [lowestSource, List.find?_eq_none]
  constructor
  · intro h
    apply BitVec.eq_of_getLsbD_eq
    intro i hi
    simpa using h i (List.mem_range.mpr hi)
  · rintro rfl i _
    simp

/-- A poll that finds nothing makes its two reads and nothing else (R345). -/
theorem poll_of_nonePending (s : State) (h : s.NonePending) : s.poll = (false, s.pollReads) := by
  unfold State.poll
  rw [show lowestSource s.pendingMask = none from (lowestSource_none _).2 h]

/-- A core that is neither blocked nor stopped, and that dispatches nothing, goes on to part 3 (R343). -/
theorem step_of_controller {s u : State} (hb : s.blocked = false) (hs : s.stopped = false)
    (hc : s.controller = (false, u)) : step s = u.afterController := by
  unfold step stepOnce
  simp only [hb, hs, hc, Bool.or_self, Bool.false_eq_true, if_false]

/-- With IME = 1 the selected source is dispatched (R346 to R348). -/
theorem step_of_selects {s : State} {i : Nat} (hb : s.blocked = false) (hs : s.stopped = false) (hi : s.ime = true)
    (h : s.Selects i) :
    step s = .next ((s.polled.setRunning true).takeInterrupt i (s.peek s.config.ifAddr)) := by
  have hc : s.controller = (true, (s.polled.setRunning true).takeInterrupt i (s.peek s.config.ifAddr)) := by
    simp only [State.controller, hi, Bool.true_or, if_true, State.poll,
      show lowestSource s.pendingMask = some i from (lowestSource_some _ _).2 h]
    rfl
  unfold step stepOnce
  simp only [hb, hs, hc, Bool.or_self, Bool.false_eq_true, if_false, if_true]

/-- Every way a step can answer a next state (R343). -/
theorem step_cases {s t : State} (h : step s = .next t) :
    ((s.blocked = true ∨ s.stopped = true) ∧ t = s.tick s.config.idleTick) ∨
    (s.blocked = false ∧ s.stopped = false ∧ s.controller.1 = true ∧ t = s.controller.2) ∨
    (s.blocked = false ∧ s.stopped = false ∧ s.controller.1 = false ∧
      ((s.controller.2.running = false ∧ t = s.controller.2.tick s.controller.2.config.idleTick) ∨
       (s.controller.2.running = true ∧ s.controller.2.commit.breakpoint.1 = true ∧
          t = s.controller.2.commit.breakpoint.2) ∨
       (s.controller.2.running = true ∧ s.controller.2.commit.breakpoint.1 = false ∧
          ∃ i, s.controller.2.commit.breakpoint.2.fetchedEntry = some i ∧
            exec i s.controller.2.commit.breakpoint.2.opcodeRead = .next t))) := by
  unfold step stepOnce at h
  by_cases hb : (s.blocked || s.stopped) = true
  · rw [if_pos hb] at h
    exact .inl ⟨by simpa using hb, (Host.Outcome.next.inj h).symm⟩
  · rw [if_neg hb] at h
    have hbs : s.blocked = false ∧ s.stopped = false := by simpa using hb
    by_cases hc : s.controller.1 = true
    · rw [if_pos hc] at h
      exact .inr (.inl ⟨hbs.1, hbs.2, hc, (Host.Outcome.next.inj h).symm⟩)
    · rw [if_neg hc] at h
      refine .inr (.inr ⟨hbs.1, hbs.2, by simpa using hc, ?_⟩)
      generalize s.controller.2 = u at h
      unfold State.afterController at h
      by_cases hr : u.running = true
      · rw [if_neg (by simp [hr])] at h
        by_cases hp : u.commit.breakpoint.1 = true
        · rw [if_pos hp] at h
          exact .inr (.inl ⟨hr, hp, (Host.Outcome.next.inj h).symm⟩)
        · rw [if_neg hp] at h
          refine .inr (.inr ⟨hr, by simpa using hp, ?_⟩)
          unfold State.instruction at h
          split at h
          · next i hi => exact ⟨i, hi, h⟩
          · cases h
      · rw [if_pos (by simpa using hr)] at h
        exact .inl ⟨by simpa using hr, (Host.Outcome.next.inj h).symm⟩

/-- What every shared operation and every change of the debug flags keeps, every step keeps. -/
theorem Closed.step {P : State → Prop} (hP : Closed P) (htrap : ∀ s b, P s → P { s with trapped := b })
    (hres : ∀ s b, P s → P { s with trapResolved := b }) {s t : State} (h : step s = .next t) (hs : P s) : P t := by
  have hpoll : P s.poll.2 := by
    unfold State.poll
    have h2 : P s.pollReads := hP.read _ _ (hP.read _ _ hs)
    split
    · exact h2
    · next i _ =>
      have h3 : P (s.pollReads.setRunning true) := hP.setRunning _ _ h2
      dsimp only
      split
      · exact hP.takeInterrupt _ _ h3
      · exact h3
  have hctl : P s.controller.2 := by
    unfold State.controller
    split
    · exact hpoll
    · exact hs
  have hbp : P s.controller.2.commit.breakpoint.2 := by
    have hc : P s.controller.2.commit := hP.setIme _ _ hctl
    unfold State.breakpoint
    split
    · split
      · exact hres _ _ hc
      · exact htrap _ _ hc
    · exact hc
  rcases step_cases h with ⟨_, rfl⟩ | ⟨_, _, _, rfl⟩ | ⟨_, _, _, ⟨_, rfl⟩ | ⟨_, _, rfl⟩ | ⟨_, _, i, _, hx⟩⟩
  · exact hP.tick _ _ hs
  · exact hctl
  · exact hP.tick _ _ hctl
  · exact hbp
  · exact hP.exec hx (hP.read _ _ hbp)

end Sys2Proof.Machine
end

