-- ==== Sys2Proof/Tests/Slice0.lean ====
section
/-! SUPPORT. Tests: ill-formed terms are refused; a written-out word of every constructor decodes; single steps against the vectors of
95_test_vectors.md; and, for every statement with hypotheses, a state and operands that meet them (`witness_…`). -/

namespace Sys2Proof.Tests
open Sys2Proof Sys2Proof.Machine
set_option Elab.async false

/-! ## Well-formedness (rules R95, R100) -/

/-- POP rr with the pair field of POP AF is no instruction of its own (R303). -/
theorem test_illformed_pop_af : (Instr.popRr .af).wellFormed = false := by decide
/-- The prefix alone is no instruction (R100). -/
theorem test_illformed_prefix : (Instr.prefixCb 0x37).wellFormed = false := by decide
theorem test_wellformed_pop_bc : (Instr.popRr .bc).wellFormed = true := by decide

/-! ## Decoding: one word for every constructor, its bits written out from the encodings of rules R96 and R97 -/

/-- Each byte list decodes to its instruction, with nothing left over. -/
def decodesAll (xs : List (List Byte × Instr)) : Bool :=
  xs.all fun x => match decode x.1 with
    | .ok (i, []) => i == x.2
    | _ => false

theorem test_decode_undefined : decodesAll [
    ([0b11010011], .undefD3),
    ([0b11011011], .undefDB),
    ([0b11011101], .undefDD),
    ([0b11100011], .undefE3),
    ([0b11100100], .undefE4),
    ([0b11101011], .undefEB),
    ([0b11101100], .undefEC),
    ([0b11101101], .undefED),
    ([0b11110100], .undefF4),
    ([0b11111100], .undefFC),
    ([0b11111101], .undefFD)] = true := by decide +kernel

theorem test_decode_loads_low : decodesAll [
    ([0b00000000], .nop),
    ([0b00010001, 0b00110100, 0b00010010], .ldRrD16 .de 0x1234),
    ([0b00000010], .ldBcA),
    ([0b00010010], .ldDeA),
    ([0b00100010], .ldHliA),
    ([0b00110010], .ldHldA),
    ([0b00001010], .ldABc),
    ([0b00011010], .ldADe),
    ([0b00101010], .ldAHli),
    ([0b00111010], .ldAHld)] = true := by decide +kernel

theorem test_decode_words : decodesAll [
    ([0b00110011], .incRr .sp),
    ([0b00101011], .decRr .hl),
    ([0b00011001], .addHlRr .de)] = true := by decide +kernel

theorem test_decode_bytes : decodesAll [
    ([0b00010100], .incR .d),
    ([0b00110100], .incHl),
    ([0b00101101], .decR .l),
    ([0b00110101], .decHl),
    ([0b00111110, 0b10011100], .ldRD8 .a 0x9C),
    ([0b00110110, 0b10011100], .ldHlD8 0x9C)] = true := by decide +kernel

theorem test_decode_accumulator : decodesAll [
    ([0b00000111], .rlca),
    ([0b00001111], .rrca),
    ([0b00010111], .rla),
    ([0b00011111], .rra),
    ([0b00100111], .daa),
    ([0b00101111], .cpl),
    ([0b00110111], .scf),
    ([0b00111111], .ccf)] = true := by decide +kernel

theorem test_decode_misc_low : decodesAll [
    ([0b00001000, 0b00110100, 0b00010010], .ldA16Sp 0x1234),
    ([0b00010000, 0b01010101], .stop),
    ([0b00011000, 0b10011100], .jrE8 0x9C),
    ([0b00110000, 0b10011100], .jrCcE8 .nc 0x9C)] = true := by decide +kernel

theorem test_decode_moves : decodesAll [
    ([0b01011100], .ldRR .e .h),
    ([0b01000110], .ldRHl .b),
    ([0b01110001], .ldHlR .c),
    ([0b01110110], .halt)] = true := by decide +kernel

theorem test_decode_alu : decodesAll [
    ([0b10000010], .addAR .d),
    ([0b10000110], .addAHl),
    ([0b10001101], .adcAR .l),
    ([0b10001110], .adcAHl),
    ([0b10010111], .subR .a),
    ([0b10010110], .subHl),
    ([0b10011011], .sbcAR .e),
    ([0b10011110], .sbcAHl),
    ([0b10100100], .andR .h),
    ([0b10100110], .andHl),
    ([0b10101000], .xorR .b),
    ([0b10101110], .xorHl),
    ([0b10110001], .orR .c),
    ([0b10110110], .orHl),
    ([0b10111010], .cpR .d),
    ([0b10111110], .cpHl)] = true := by decide +kernel

theorem test_decode_alu_immediate : decodesAll [
    ([0b11000110, 0b10011100], .addAD8 0x9C),
    ([0b11001110, 0b10011100], .adcAD8 0x9C),
    ([0b11010110, 0b10011100], .subD8 0x9C),
    ([0b11011110, 0b10011100], .sbcAD8 0x9C),
    ([0b11100110, 0b10011100], .andD8 0x9C),
    ([0b11101110, 0b10011100], .xorD8 0x9C),
    ([0b11110110, 0b10011100], .orD8 0x9C),
    ([0b11111110, 0b10011100], .cpD8 0x9C)] = true := by decide +kernel

theorem test_decode_control : decodesAll [
    ([0b11011000], .retCc .c),
    ([0b11100001], .popRr .hl),
    ([0b11110001], .popAf),
    ([0b11001010, 0b00110100, 0b00010010], .jpCcA16 .z 0x1234),
    ([0b11000011, 0b00110100, 0b00010010], .jpA16 0x1234),
    ([0b11010100, 0b00110100, 0b00010010], .callCcA16 .nc 0x1234),
    ([0b11010101], .pushRr .de),
    ([0b11101111], .rst 5),
    ([0b11001001], .ret),
    ([0b11011001], .reti),
    ([0b11001101, 0b00110100, 0b00010010], .callA16 0x1234)] = true := by decide +kernel

theorem test_decode_high : decodesAll [
    ([0b11100000, 0b10011100], .ldhA8A 0x9C),
    ([0b11110000, 0b10011100], .ldhAA8 0x9C),
    ([0b11100010], .ldCA),
    ([0b11110010], .ldAC),
    ([0b11101000, 0b10011100], .addSpE8 0x9C),
    ([0b11111000, 0b10011100], .ldHlSpE8 0x9C),
    ([0b11101001], .jpHl),
    ([0b11111001], .ldSpHl),
    ([0b11101010, 0b00110100, 0b00010010], .ldA16A 0x1234),
    ([0b11111010, 0b00110100, 0b00010010], .ldAA16 0x1234),
    ([0b11110011], .di),
    ([0b11111011], .ei)] = true := by decide +kernel

theorem test_decode_shifts : decodesAll [
    ([0b11001011, 0b00000101], .rlcR .l),
    ([0b11001011, 0b00000110], .rlcHl),
    ([0b11001011, 0b00001111], .rrcR .a),
    ([0b11001011, 0b00001110], .rrcHl),
    ([0b11001011, 0b00010011], .rlR .e),
    ([0b11001011, 0b00010110], .rlHl),
    ([0b11001011, 0b00011100], .rrR .h),
    ([0b11001011, 0b00011110], .rrHl),
    ([0b11001011, 0b00100000], .slaR .b),
    ([0b11001011, 0b00100110], .slaHl),
    ([0b11001011, 0b00101001], .sraR .c),
    ([0b11001011, 0b00101110], .sraHl),
    ([0b11001011, 0b00110010], .swapR .d),
    ([0b11001011, 0b00110110], .swapHl),
    ([0b11001011, 0b00111101], .srlR .l),
    ([0b11001011, 0b00111110], .srlHl)] = true := by decide +kernel

theorem test_decode_bits : decodesAll [
    ([0b11001011, 0b01101111], .bitBR 5 .a),
    ([0b11001011, 0b01101110], .bitBHl 5),
    ([0b11001011, 0b10011011], .resBR 3 .e),
    ([0b11001011, 0b10101110], .resBHl 5),
    ([0b11001011, 0b11101100], .setBR 5 .h),
    ([0b11001011, 0b11110110], .setBHl 6)] = true := by decide +kernel

/-- The prefix byte selects the entry that reads the next byte; the pair is its secondary instruction (R100, R313). -/
theorem test_decode_prefix : primaryEntry 0xCB 0x37 0 = some (.prefixCb 0x37) ∧ decodesAll [([0xCB, 0x37], .swapR .a)] = true ∧
    decodeTableWord 8 0xCB = some (.prefixCb 0) := by decide +kernel

/-- A table word of the secondary table, numbered as the table numbers it; one of the primary table; one with operand bytes. -/
theorem test_decode_table_word : decodeTableWord 16 0xCB7C = some (.bitBR 7 .h) ∧ decodeTableWord 8 0x76 = some .halt ∧
    decodeTableWord 24 0x1234C3 = some (.jpA16 0x1234) := by decide +kernel

/-- Too few bytes are refused by name. -/
theorem test_decode_truncated : (match decode [0xC3, 0x00] with | .error .truncated => true | _ => false) = true ∧
    (match decode [] with | .error .noBytes => true | _ => false) = true := by decide +kernel

/-- A later-declared rule wins: 0x76 is HALT, 0xF1 is POP AF, 0x36 is LD (HL),d8 (R95; K21, K47, K15). -/
theorem test_override : decodesAll [([0x76], .halt), ([0xF1], .popAf), ([0x36, 0x00], .ldHlD8 0)] = true := by decide +kernel

/-! ## Single steps (95_test_vectors.md): the start states and results are the vectors' own -/

/-- The baseline state of 95_test_vectors.md, with bytes placed in flat RAM of zeros. -/
def base (cells : List (Nat × Byte)) : State :=
  { State.reset with
    a := 0, f := 0, b := 0, c := 0, d := 0, e := 0, h := 0xC0, l := 0, sp := 0xD000, pc := 0x0200
    mem := cells.foldl (fun m x => m.write x.1 x.2) [] }

/-- The state after one step, if the step answers one. -/
def after (s : State) : Option State :=
  match step s with
  | .next t => some t
  | _ => none

theorem step_of_after {s t : State} (h : after s = some t) : step s = .next t := by
  unfold after at h
  split at h
  · next u hu => cases h; exact hu
  · cases h

/-- One step answers a next state that passes the check. -/
def becomes (s : State) (check : State → Bool) : Bool := (after s).any check

/-- L3: LD H,L (R131). -/
theorem test_L3 : becomes { base [(0x0200, 0x65)] with h := 0x12, l := 0xAB } (fun t =>
    t.clock = 4 ∧ t.h = 0xAB ∧ t.pc = 0x0201) = true := by decide +kernel
/-- L4: LD H,(HL) (R132). -/
theorem test_L4 : becomes { base [(0xC000, 0x12), (0x0200, 0x66)] with h := 0xC0, l := 0x00 } (fun t =>
    t.clock = 8 ∧ t.h = 0x12 ∧ t.pc = 0x0201) = true := by decide +kernel
/-- L6: LD (HL),L (R133). -/
theorem test_L6 : becomes { base [(0x0200, 0x75)] with h := 0xC0, l := 0xDE } (fun t =>
    t.clock = 8 ∧ t.pc = 0x0201 ∧ t.peek 0xC0DE = 0xDE) = true := by decide +kernel
/-- L9: LD A,d8 (R134). -/
theorem test_L9 : becomes { base [(0x0000, 0x5A), (0xFFFF, 0x3E)] with pc := 0xFFFF } (fun t =>
    t.clock = 8 ∧ t.a = 0x5A ∧ t.pc = 0x0001) = true := by decide +kernel
/-- L10: LD (HL),d8 (R135). -/
theorem test_L10 : becomes (base [(0x0200, 0x36), (0x0201, 0x7F)]) (fun t =>
    t.clock = 12 ∧ t.pc = 0x0202 ∧ t.peek 0xC000 = 0x7F) = true := by decide +kernel
/-- L11: LD A,(BC) (R136). -/
theorem test_L11 : becomes { base [(0xC010, 0x33), (0x0200, 0x0A)] with b := 0xC0, c := 0x10 } (fun t =>
    t.clock = 8 ∧ t.a = 0x33 ∧ t.pc = 0x0201) = true := by decide +kernel
/-- L12: LD A,(DE) (R137). -/
theorem test_L12 : becomes { base [(0x8000, 0x01), (0x0200, 0x1A)] with d := 0x80, e := 0x00 } (fun t =>
    t.clock = 8 ∧ t.a = 0x01 ∧ t.pc = 0x0201) = true := by decide +kernel
/-- L13: LD (BC),A (R138). -/
theorem test_L13 : becomes { base [(0x0200, 0x02)] with a := 0xAB, b := 0xC0, c := 0x20 } (fun t =>
    t.clock = 8 ∧ t.pc = 0x0201 ∧ t.peek 0xC020 = 0xAB) = true := by decide +kernel
/-- L14: LD (DE),A (R139). -/
theorem test_L14 : becomes { base [(0x0200, 0x12)] with a := 0xCD, d := 0xC0, e := 0x21 } (fun t =>
    t.clock = 8 ∧ t.pc = 0x0201 ∧ t.peek 0xC021 = 0xCD) = true := by decide +kernel
/-- L16: LD A,(HL+) (R140). -/
theorem test_L16 : becomes { base [(0xFFFF, 0x1F), (0x0200, 0x2A)] with h := 0xFF, l := 0xFF } (fun t =>
    t.clock = 8 ∧ t.a = 0x1F ∧ t.h = 0x00 ∧ t.l = 0x00 ∧ t.pc = 0x0201) = true := by decide +kernel
/-- L18: LD A,(HL-) (R141). -/
theorem test_L18 : becomes { base [(0x0000, 0x21), (0x0200, 0x3A)] with h := 0x00, l := 0x00 } (fun t =>
    t.clock = 8 ∧ t.a = 0x21 ∧ t.h = 0xFF ∧ t.l = 0xFF ∧ t.pc = 0x0201) = true := by decide +kernel
/-- L19: LD (HL+),A (R142). -/
theorem test_L19 : becomes { base [(0x0200, 0x22)] with a := 0x5A, h := 0xC0, l := 0x00 } (fun t =>
    t.clock = 8 ∧ t.l = 0x01 ∧ t.pc = 0x0201 ∧ t.peek 0xC000 = 0x5A) = true := by decide +kernel
/-- L21: LD (HL-),A (R143). -/
theorem test_L21 : becomes { base [(0x0200, 0x32)] with a := 0x5A, h := 0x00, l := 0x00 } (fun t =>
    t.clock = 8 ∧ t.h = 0xFF ∧ t.l = 0xFF ∧ t.pc = 0x0201 ∧ t.peek 0x0000 = 0x5A) = true := by decide +kernel
/-- L41: LD A,(a16) (R144). -/
theorem test_L41 : becomes (base [(0x1234, 0x77), (0x0200, 0xFA), (0x0201, 0x34), (0x0202, 0x12)]) (fun t =>
    t.clock = 16 ∧ t.a = 0x77 ∧ t.pc = 0x0203 ∧ t.history.reverse = [.read 0x0200 0xFA, .tick 4, .read 0x0201 0x34, .tick 4, .read 0x0202 0x12, .tick 4, .read 0x1234 0x77, .tick 4]) = true := by decide +kernel
/-- L23: LD (a16),A (R145). -/
theorem test_L23 : becomes { base [(0x0200, 0xEA), (0x0201, 0x00), (0x0202, 0xC0)] with a := 0x5C } (fun t =>
    t.clock = 16 ∧ t.pc = 0x0203 ∧ t.peek 0xC000 = 0x5C) = true := by decide +kernel
/-- L24: LDH A,(a8) (R146). -/
theorem test_L24 : becomes (base [(0xFF44, 0x90), (0x0200, 0xF0), (0x0201, 0x44)]) (fun t =>
    t.clock = 12 ∧ t.a = 0x90 ∧ t.pc = 0x0202) = true := by decide +kernel
/-- L25: LDH (a8),A (R147). -/
theorem test_L25 : becomes { base [(0x0200, 0xE0), (0x0201, 0x80)] with a := 0x01 } (fun t =>
    t.clock = 12 ∧ t.pc = 0x0202 ∧ t.peek 0xFF80 = 0x01) = true := by decide +kernel
/-- L26: LD A,(C) (R148). -/
theorem test_L26 : becomes { base [(0xFF80, 0xEE), (0x0200, 0xF2)] with c := 0x80 } (fun t =>
    t.clock = 8 ∧ t.a = 0xEE ∧ t.pc = 0x0201) = true := by decide +kernel
/-- L27: LD (C),A (R149). -/
theorem test_L27 : becomes { base [(0x0200, 0xE2)] with a := 0x3C, c := 0x0F } (fun t =>
    t.clock = 8 ∧ t.pc = 0x0201 ∧ t.peek 0xFF0F = 0x3C) = true := by decide +kernel
/-- L28: LD BC,d16 (R150). -/
theorem test_L28 : becomes (base [(0x0200, 0x01), (0x0201, 0x34), (0x0202, 0x12)]) (fun t =>
    t.clock = 12 ∧ t.b = 0x12 ∧ t.c = 0x34 ∧ t.pc = 0x0203) = true := by decide +kernel
/-- L30: LD SP,d16 (R150). -/
theorem test_L30 : becomes (base [(0x0200, 0x31), (0x0201, 0xFE), (0x0202, 0xFF)]) (fun t =>
    t.clock = 12 ∧ t.sp = 0xFFFE ∧ t.pc = 0x0203) = true := by decide +kernel
/-- L42: LD (a16),SP (R151). -/
theorem test_L42 : becomes { base [(0x0200, 0x08), (0x0201, 0xFF), (0x0202, 0xFF)] with sp := 0x1234 } (fun t =>
    t.clock = 20 ∧ t.pc = 0x0203 ∧ t.peek 0x0000 = 0x12 ∧ t.peek 0xFFFF = 0x34 ∧ t.history.reverse = [.read 0x0200 0x08, .tick 4, .read 0x0201 0xFF, .tick 4, .read 0x0202 0xFF, .tick 4, .write 0xFFFF 0x34, .tick 4, .write 0x0000 0x12, .tick 4]) = true := by decide +kernel
/-- L44: LD SP,HL (R152). -/
theorem test_L44 : becomes { base [(0x0200, 0xF9)] with h := 0xD1, l := 0x23 } (fun t =>
    t.clock = 8 ∧ t.sp = 0xD123 ∧ t.pc = 0x0201 ∧ t.history.reverse = [.read 0x0200 0xF9, .tick 4, .tick 4]) = true := by decide +kernel
/-- L37: LD HL,SP+e8 (R153). -/
theorem test_L37 : becomes { base [(0x0200, 0xF8), (0x0201, 0xFF)] with sp := 0x0001 } (fun t =>
    t.clock = 12 ∧ t.f = 0x30 ∧ t.h = 0x00 ∧ t.pc = 0x0202) = true := by decide +kernel
/-- L38: LD HL,SP+e8 (R153). -/
theorem test_L38 : becomes { base [(0x0200, 0xF8), (0x0201, 0x80)] with sp := 0x0100 } (fun t =>
    t.clock = 12 ∧ t.h = 0x00 ∧ t.l = 0x80 ∧ t.pc = 0x0202) = true := by decide +kernel
/-- A6: ADD A,B (R172). -/
theorem test_A6 : becomes { base [(0x0200, 0x80)] with a := 0x3A, b := 0xC6 } (fun t =>
    t.clock = 4 ∧ t.a = 0x00 ∧ t.f = 0xB0 ∧ t.pc = 0x0201) = true := by decide +kernel
/-- A7: ADD A,(HL) (R173). -/
theorem test_A7 : becomes { base [(0xC000, 0x12), (0x0200, 0x86)] with a := 0x3C } (fun t =>
    t.clock = 8 ∧ t.a = 0x4E ∧ t.pc = 0x0201) = true := by decide +kernel
/-- A8: ADD A,d8 (R174). -/
theorem test_A8 : becomes { base [(0x0200, 0xC6), (0x0201, 0xFF)] with a := 0x3C } (fun t =>
    t.clock = 8 ∧ t.a = 0x3B ∧ t.f = 0x30 ∧ t.pc = 0x0202) = true := by decide +kernel
/-- A11: ADC A,B (R175). -/
theorem test_A11 : becomes { base [(0x0200, 0x88)] with a := 0xFF, b := 0xFF, f := 0x10 } (fun t =>
    t.clock = 4 ∧ t.f = 0x30 ∧ t.pc = 0x0201) = true := by decide +kernel
/-- A14: ADC A,(HL) (R176). -/
theorem test_A14 : becomes { base [(0xC000, 0x1E), (0x0200, 0x8E)] with a := 0xE1, f := 0x10 } (fun t =>
    t.clock = 8 ∧ t.a = 0x00 ∧ t.f = 0xB0 ∧ t.pc = 0x0201) = true := by decide +kernel
/-- A15: ADC A,d8 (R177). -/
theorem test_A15 : becomes { base [(0x0200, 0xCE), (0x0201, 0x3B)] with a := 0xE1, f := 0x10 } (fun t =>
    t.clock = 8 ∧ t.a = 0x1D ∧ t.pc = 0x0202) = true := by decide +kernel
/-- A16: SUB B (R178). -/
theorem test_A16 : becomes { base [(0x0200, 0x90)] with a := 0x00, b := 0x01 } (fun t =>
    t.clock = 4 ∧ t.a = 0xFF ∧ t.f = 0x70 ∧ t.pc = 0x0201) = true := by decide +kernel
/-- A20: SUB (HL) (R179). -/
theorem test_A20 : becomes { base [(0xC000, 0x40), (0x0200, 0x96)] with a := 0x3E } (fun t =>
    t.clock = 8 ∧ t.a = 0xFE ∧ t.f = 0x50 ∧ t.pc = 0x0201) = true := by decide +kernel
/-- A21: SUB d8 (R180). -/
theorem test_A21 : becomes { base [(0x0200, 0xD6), (0x0201, 0x0F)] with a := 0x3E } (fun t =>
    t.clock = 8 ∧ t.a = 0x2F ∧ t.f = 0x60 ∧ t.pc = 0x0202) = true := by decide +kernel
/-- A24: SBC A,B (R181). -/
theorem test_A24 : becomes { base [(0x0200, 0x98)] with a := 0x00, b := 0xFF, f := 0x10 } (fun t =>
    t.clock = 4 ∧ t.f = 0xF0 ∧ t.pc = 0x0201) = true := by decide +kernel
/-- A27: SBC A,(HL) (R182). -/
theorem test_A27 : becomes { base [(0xC000, 0x4F), (0x0200, 0x9E)] with a := 0x3B, f := 0x10 } (fun t =>
    t.clock = 8 ∧ t.a = 0xEB ∧ t.f = 0x70 ∧ t.pc = 0x0201) = true := by decide +kernel
/-- A28: SBC A,d8 (R183). -/
theorem test_A28 : becomes { base [(0x0200, 0xDE), (0x0201, 0x3A)] with a := 0x3B, f := 0x10 } (fun t =>
    t.clock = 8 ∧ t.a = 0x00 ∧ t.f = 0xC0 ∧ t.pc = 0x0202) = true := by decide +kernel
/-- A29: AND L (R184). -/
theorem test_A29 : becomes { base [(0x0200, 0xA5)] with a := 0x5A, l := 0x3F } (fun t =>
    t.clock = 4 ∧ t.a = 0x1A ∧ t.f = 0x20 ∧ t.pc = 0x0201) = true := by decide +kernel
/-- A31: AND (HL) (R185). -/
theorem test_A31 : becomes { base [(0xC000, 0x00), (0x0200, 0xA6)] with a := 0x5A } (fun t =>
    t.clock = 8 ∧ t.a = 0x00 ∧ t.f = 0xA0 ∧ t.pc = 0x0201) = true := by decide +kernel
/-- A32: AND d8 (R186). -/
theorem test_A32 : becomes { base [(0x0200, 0xE6), (0x0201, 0x38)] with a := 0x5A } (fun t =>
    t.clock = 8 ∧ t.a = 0x18 ∧ t.f = 0x20 ∧ t.pc = 0x0202) = true := by decide +kernel
/-- A33: XOR A (R187). -/
theorem test_A33 : becomes { base [(0x0200, 0xAF)] with a := 0xFF, f := 0xF0 } (fun t =>
    t.clock = 4 ∧ t.a = 0x00 ∧ t.f = 0x80 ∧ t.pc = 0x0201) = true := by decide +kernel
/-- A34: XOR (HL) (R188). -/
theorem test_A34 : becomes { base [(0xC000, 0x8A), (0x0200, 0xAE)] with a := 0xFF } (fun t =>
    t.clock = 8 ∧ t.a = 0x75 ∧ t.pc = 0x0201) = true := by decide +kernel
/-- A35: XOR d8 (R189). -/
theorem test_A35 : becomes { base [(0x0200, 0xEE), (0x0201, 0x0F)] with a := 0xFF } (fun t =>
    t.clock = 8 ∧ t.a = 0xF0 ∧ t.pc = 0x0202) = true := by decide +kernel
/-- A37: OR C (R190). -/
theorem test_A37 : becomes { base [(0x0200, 0xB1)] with a := 0x00, c := 0x00, f := 0x70 } (fun t =>
    t.clock = 4 ∧ t.f = 0x80 ∧ t.pc = 0x0201) = true := by decide +kernel
/-- A38: OR (HL) (R191). -/
theorem test_A38 : becomes { base [(0xC000, 0x0F), (0x0200, 0xB6)] with a := 0x5A } (fun t =>
    t.clock = 8 ∧ t.a = 0x5F ∧ t.pc = 0x0201) = true := by decide +kernel
/-- A39: OR d8 (R192). -/
theorem test_A39 : becomes { base [(0x0200, 0xF6), (0x0201, 0x00)] with a := 0x00 } (fun t =>
    t.clock = 8 ∧ t.f = 0x80 ∧ t.pc = 0x0202) = true := by decide +kernel
/-- A40: CP B (R193). -/
theorem test_A40 : becomes { base [(0x0200, 0xB8)] with a := 0x3C, b := 0x2F } (fun t =>
    t.clock = 4 ∧ t.f = 0x60 ∧ t.pc = 0x0201) = true := by decide +kernel
/-- A42: CP (HL) (R194). -/
theorem test_A42 : becomes { base [(0xC000, 0x40), (0x0200, 0xBE)] with a := 0x3C } (fun t =>
    t.clock = 8 ∧ t.f = 0x50 ∧ t.pc = 0x0201) = true := by decide +kernel
/-- A43: CP d8 (R195). -/
theorem test_A43 : becomes { base [(0x0200, 0xFE), (0x0201, 0x3C)] with a := 0x3C } (fun t =>
    t.clock = 8 ∧ t.f = 0xC0 ∧ t.pc = 0x0202) = true := by decide +kernel
/-- A45: INC B (R196). -/
theorem test_A45 : becomes { base [(0x0200, 0x04)] with b := 0x0F, f := 0x40 } (fun t =>
    t.clock = 4 ∧ t.f = 0x20 ∧ t.b = 0x10 ∧ t.pc = 0x0201) = true := by decide +kernel
/-- E8b: INC (HL) (R197). -/
theorem test_E8b : becomes { base [(0xC000, 0xFF), (0x0200, 0x34)] with h := 0xC0, l := 0x00, f := 0x10 } (fun t =>
    t.clock = 12 ∧ t.f = 0xB0 ∧ t.pc = 0x0201 ∧ t.peek 0xC000 = 0x00 ∧ t.history.reverse = [.read 0x0200 0x34, .tick 4, .read 0xC000 0xFF, .tick 4, .write 0xC000 0x00, .tick 4]) = true := by decide +kernel
/-- A51: DEC B (R198). -/
theorem test_A51 : becomes { base [(0x0200, 0x05)] with b := 0x10 } (fun t =>
    t.clock = 4 ∧ t.f = 0x60 ∧ t.b = 0x0F ∧ t.pc = 0x0201) = true := by decide +kernel
/-- A52: DEC (HL) (R199). -/
theorem test_A52 : becomes { base [(0xC000, 0x00), (0x0200, 0x35)] with f := 0x10 } (fun t =>
    t.clock = 12 ∧ t.f = 0x70 ∧ t.pc = 0x0201 ∧ t.peek 0xC000 = 0xFF) = true := by decide +kernel
/-- Q13: DAA (R200). -/
theorem test_Q13 : becomes { base [(0x0200, 0x27)] with a := 0x9A, f := 0x30 } (fun t =>
    t.clock = 4 ∧ t.a = 0x00 ∧ t.f = 0x90 ∧ t.pc = 0x0201) = true := by decide +kernel
/-- Q9: DAA (R200). -/
theorem test_Q9 : becomes { base [(0x0200, 0x27)] with a := 0xFF, f := 0x70 } (fun t =>
    t.clock = 4 ∧ t.a = 0x99 ∧ t.f = 0x50 ∧ t.pc = 0x0201) = true := by decide +kernel
/-- A53: CPL (R201). -/
theorem test_A53 : becomes { base [(0x0200, 0x2F)] with a := 0x35, f := 0x80 } (fun t =>
    t.clock = 4 ∧ t.a = 0xCA ∧ t.f = 0xE0 ∧ t.pc = 0x0201) = true := by decide +kernel
/-- A54: SCF (R202). -/
theorem test_A54 : becomes { base [(0x0200, 0x37)] with f := 0xE0 } (fun t =>
    t.clock = 4 ∧ t.f = 0x90 ∧ t.pc = 0x0201) = true := by decide +kernel
/-- A55: CCF (R203). -/
theorem test_A55 : becomes { base [(0x0200, 0x3F)] with f := 0xF0 } (fun t =>
    t.clock = 4 ∧ t.f = 0x80 ∧ t.pc = 0x0201) = true := by decide +kernel
/-- A57: RLCA (R204). -/
theorem test_A57 : becomes { base [(0x0200, 0x07)] with a := 0x85 } (fun t =>
    t.clock = 4 ∧ t.a = 0x0B ∧ t.f = 0x10 ∧ t.pc = 0x0201) = true := by decide +kernel
/-- A60: RRCA (R205). -/
theorem test_A60 : becomes { base [(0x0200, 0x0F)] with a := 0x3B } (fun t =>
    t.clock = 4 ∧ t.a = 0x9D ∧ t.f = 0x10 ∧ t.pc = 0x0201) = true := by decide +kernel
/-- A62: RLA (R206). -/
theorem test_A62 : becomes { base [(0x0200, 0x17)] with a := 0x95, f := 0x10 } (fun t =>
    t.clock = 4 ∧ t.a = 0x2B ∧ t.pc = 0x0201) = true := by decide +kernel
/-- A63: RRA (R207). -/
theorem test_A63 : becomes { base [(0x0200, 0x1F)] with a := 0x01, f := 0x10 } (fun t =>
    t.clock = 4 ∧ t.a = 0x80 ∧ t.pc = 0x0201) = true := by decide +kernel
/-- B1: RLC B (R231). -/
theorem test_B1 : becomes { base [(0x0200, 0xCB), (0x0201, 0x00)] with b := 0x85 } (fun t =>
    t.clock = 8 ∧ t.f = 0x10 ∧ t.b = 0x0B ∧ t.pc = 0x0202) = true := by decide +kernel
/-- B4: RLC (HL) (R232). -/
theorem test_B4 : becomes (base [(0xC000, 0x00), (0x0200, 0xCB), (0x0201, 0x06)]) (fun t =>
    t.clock = 16 ∧ t.f = 0x80 ∧ t.pc = 0x0202 ∧ t.peek 0xC000 = 0x00) = true := by decide +kernel
/-- B5: RRC C (R233). -/
theorem test_B5 : becomes { base [(0x0200, 0xCB), (0x0201, 0x09)] with c := 0x01 } (fun t =>
    t.clock = 8 ∧ t.f = 0x10 ∧ t.c = 0x80 ∧ t.pc = 0x0202) = true := by decide +kernel
/-- B6: RRC (HL) (R234). -/
theorem test_B6 : becomes (base [(0xC000, 0x02), (0x0200, 0xCB), (0x0201, 0x0E)]) (fun t =>
    t.clock = 16 ∧ t.pc = 0x0202 ∧ t.peek 0xC000 = 0x01) = true := by decide +kernel
/-- B7: RL L (R235). -/
theorem test_B7 : becomes { base [(0x0200, 0xCB), (0x0201, 0x15)] with l := 0x80, f := 0x00 } (fun t =>
    t.clock = 8 ∧ t.f = 0x90 ∧ t.l = 0x00 ∧ t.pc = 0x0202) = true := by decide +kernel
/-- B9: RL (HL) (R236). -/
theorem test_B9 : becomes { base [(0xC000, 0x11), (0x0200, 0xCB), (0x0201, 0x16)] with f := 0x00 } (fun t =>
    t.clock = 16 ∧ t.pc = 0x0202 ∧ t.peek 0xC000 = 0x22) = true := by decide +kernel
/-- B11: RR B (R237). -/
theorem test_B11 : becomes { base [(0x0200, 0xCB), (0x0201, 0x18)] with b := 0x00, f := 0x10 } (fun t =>
    t.clock = 8 ∧ t.f = 0x00 ∧ t.b = 0x80 ∧ t.pc = 0x0202) = true := by decide +kernel
/-- B12: RR (HL) (R238). -/
theorem test_B12 : becomes { base [(0xC000, 0x8A), (0x0200, 0xCB), (0x0201, 0x1E)] with f := 0x00 } (fun t =>
    t.clock = 16 ∧ t.pc = 0x0202 ∧ t.peek 0xC000 = 0x45) = true := by decide +kernel
/-- B13: SLA D (R239). -/
theorem test_B13 : becomes { base [(0x0200, 0xCB), (0x0201, 0x22)] with d := 0x80 } (fun t =>
    t.clock = 8 ∧ t.f = 0x90 ∧ t.d = 0x00 ∧ t.pc = 0x0202) = true := by decide +kernel
/-- B15: SLA (HL) (R240). -/
theorem test_B15 : becomes (base [(0xC000, 0xFF), (0x0200, 0xCB), (0x0201, 0x26)]) (fun t =>
    t.clock = 16 ∧ t.f = 0x10 ∧ t.pc = 0x0202 ∧ t.peek 0xC000 = 0xFE) = true := by decide +kernel
/-- B17: SRA B (R241). -/
theorem test_B17 : becomes { base [(0x0200, 0xCB), (0x0201, 0x28)] with b := 0x80 } (fun t =>
    t.clock = 8 ∧ t.b = 0xC0 ∧ t.pc = 0x0202) = true := by decide +kernel
/-- B20: SRA (HL) (R242). -/
theorem test_B20 : becomes (base [(0xC000, 0x01), (0x0200, 0xCB), (0x0201, 0x2E)]) (fun t =>
    t.clock = 16 ∧ t.f = 0x90 ∧ t.pc = 0x0202 ∧ t.peek 0xC000 = 0x00) = true := by decide +kernel
/-- B21: SWAP A (R243). -/
theorem test_B21 : becomes { base [(0x0200, 0xCB), (0x0201, 0x37)] with a := 0xF1, f := 0xF0 } (fun t =>
    t.clock = 8 ∧ t.a = 0x1F ∧ t.f = 0x00 ∧ t.pc = 0x0202) = true := by decide +kernel
/-- B42: SWAP (HL) (R244). -/
theorem test_B42 : becomes (base [(0xC000, 0xA5), (0x0200, 0xCB), (0x0201, 0x36)]) (fun t =>
    t.clock = 16 ∧ t.pc = 0x0202 ∧ t.peek 0xC000 = 0x5A ∧ t.history.reverse = [.read 0x0200 0xCB, .tick 4, .read 0x0201 0x36, .tick 4, .read 0xC000 0xA5, .tick 4, .write 0xC000 0x5A, .tick 4]) = true := by decide +kernel
/-- B24: SRL A (R245). -/
theorem test_B24 : becomes { base [(0x0200, 0xCB), (0x0201, 0x3F)] with a := 0x01 } (fun t =>
    t.clock = 8 ∧ t.a = 0x00 ∧ t.f = 0x90 ∧ t.pc = 0x0202) = true := by decide +kernel
/-- B26: SRL (HL) (R246). -/
theorem test_B26 : becomes (base [(0xC000, 0xFF), (0x0200, 0xCB), (0x0201, 0x3E)]) (fun t =>
    t.clock = 16 ∧ t.f = 0x10 ∧ t.pc = 0x0202 ∧ t.peek 0xC000 = 0x7F) = true := by decide +kernel
/-- B28: BIT 7,H (R247). -/
theorem test_B28 : becomes { base [(0x0200, 0xCB), (0x0201, 0x7C)] with h := 0x7F, f := 0x40 } (fun t =>
    t.clock = 8 ∧ t.f = 0xA0 ∧ t.pc = 0x0202) = true := by decide +kernel
/-- B43: BIT 0,(HL) (R248). -/
theorem test_B43 : becomes (base [(0xC000, 0xFE), (0x0200, 0xCB), (0x0201, 0x46)]) (fun t =>
    t.clock = 12 ∧ t.f = 0xA0 ∧ t.pc = 0x0202 ∧ t.history.reverse = [.read 0x0200 0xCB, .tick 4, .read 0x0201 0x46, .tick 4, .read 0xC000 0xFE, .tick 4]) = true := by decide +kernel
/-- B34: RES 7,B (R249). -/
theorem test_B34 : becomes { base [(0x0200, 0xCB), (0x0201, 0xB8)] with b := 0x80 } (fun t =>
    t.clock = 8 ∧ t.b = 0x00 ∧ t.pc = 0x0202) = true := by decide +kernel
/-- B44: RES 0,(HL) (R250). -/
theorem test_B44 : becomes (base [(0xC000, 0xFE), (0x0200, 0xCB), (0x0201, 0x86)]) (fun t =>
    t.clock = 16 ∧ t.pc = 0x0202 ∧ t.peek 0xC000 = 0xFE ∧ t.history.reverse = [.read 0x0200 0xCB, .tick 4, .read 0x0201 0x86, .tick 4, .read 0xC000 0xFE, .tick 4, .write 0xC000 0xFE, .tick 4]) = true := by decide +kernel
/-- B38: SET 7,A (R251). -/
theorem test_B38 : becomes { base [(0x0200, 0xCB), (0x0201, 0xFF)] with a := 0x00, f := 0x00 } (fun t =>
    t.clock = 8 ∧ t.a = 0x80 ∧ t.pc = 0x0202) = true := by decide +kernel
/-- B39: SET 7,(HL) (R252). -/
theorem test_B39 : becomes (base [(0xC000, 0x00), (0x0200, 0xCB), (0x0201, 0xFE)]) (fun t =>
    t.clock = 16 ∧ t.pc = 0x0202 ∧ t.peek 0xC000 = 0x80) = true := by decide +kernel
/-- B40: SWAP A (R313). -/
theorem test_B40 : becomes { base [(0x0000, 0x37), (0xFFFF, 0xCB)] with a := 0x12, pc := 0xFFFF } (fun t =>
    t.clock = 8 ∧ t.a = 0x21 ∧ t.pc = 0x0001) = true := by decide +kernel
/-- J44: JP a16 (R271). -/
theorem test_J44 : becomes { base [(0x0100, 0xC3), (0x0101, 0x50), (0x0102, 0x01)] with pc := 0x0100 } (fun t =>
    t.clock = 16 ∧ t.pc = 0x0150 ∧ t.history.reverse = [.read 0x0100 0xC3, .tick 4, .read 0x0101 0x50, .tick 4, .read 0x0102 0x01, .tick 4, .tick 4]) = true := by decide +kernel
/-- J6: JP NC,a16 (R272). -/
theorem test_J6 : becomes { base [(0x0200, 0xD2), (0x0201, 0x00), (0x0202, 0x30)] with f := 0xE0 } (fun t =>
    t.clock = 16 ∧ t.pc = 0x3000) = true := by decide +kernel
/-- J7: JP NC,a16 (R272). -/
theorem test_J7 : becomes { base [(0x0200, 0xD2), (0x0201, 0x00), (0x0202, 0x30)] with f := 0x10 } (fun t =>
    t.clock = 12 ∧ t.pc = 0x0203) = true := by decide +kernel
/-- J10: JP HL (R273). -/
theorem test_J10 : becomes { base [(0x0200, 0xE9)] with h := 0x40, l := 0x00 } (fun t =>
    t.clock = 4 ∧ t.pc = 0x4000) = true := by decide +kernel
/-- J18: JR e8 (R274). -/
theorem test_J18 : becomes { base [(0x0000, 0x18), (0x0001, 0x80)] with pc := 0x0000 } (fun t =>
    t.clock = 12 ∧ t.pc = 0xFF82) = true := by decide +kernel
/-- J19: JR NZ,e8 (R275). -/
theorem test_J19 : becomes { base [(0x0110, 0x20), (0x0111, 0xFC)] with pc := 0x0110, f := 0x00 } (fun t =>
    t.clock = 12 ∧ t.pc = 0x010E) = true := by decide +kernel
/-- J20: JR NZ,e8 (R275). -/
theorem test_J20 : becomes { base [(0x0110, 0x20), (0x0111, 0xFC)] with pc := 0x0110, f := 0x80 } (fun t =>
    t.clock = 8 ∧ t.pc = 0x0112) = true := by decide +kernel
/-- J52: CALL a16 (R276). -/
theorem test_J52 : becomes { base [(0x0200, 0xCD), (0x0201, 0x00), (0x0202, 0x30)] with sp := 0x0001 } (fun t =>
    t.clock = 24 ∧ t.sp = 0xFFFF ∧ t.pc = 0x3000 ∧ t.peek 0x0000 = 0x02 ∧ t.peek 0xFFFF = 0x03 ∧ t.history.reverse = [.read 0x0200 0xCD, .tick 4, .read 0x0201 0x00, .tick 4, .read 0x0202 0x30, .tick 4, .tick 4, .write 0x0000 0x02, .tick 4, .write 0xFFFF 0x03, .tick 4]) = true := by decide +kernel
/-- J29: CALL C,a16 (R277). -/
theorem test_J29 : becomes { base [(0x0300, 0xDC), (0x0301, 0x34), (0x0302, 0x12)] with pc := 0x0300, f := 0x10 } (fun t =>
    t.clock = 24 ∧ t.sp = 0xCFFE ∧ t.pc = 0x1234 ∧ t.peek 0xCFFE = 0x03 ∧ t.peek 0xCFFF = 0x03) = true := by decide +kernel
/-- J30: CALL C,a16 (R277). -/
theorem test_J30 : becomes { base [(0x0300, 0xDC), (0x0301, 0x34), (0x0302, 0x12)] with pc := 0x0300, f := 0x00 } (fun t =>
    t.clock = 12 ∧ t.pc = 0x0303) = true := by decide +kernel
/-- J35: RET (R278). -/
theorem test_J35 : becomes { base [(0x0000, 0x12), (0xFFFF, 0x34), (0x0200, 0xC9)] with sp := 0xFFFF } (fun t =>
    t.clock = 16 ∧ t.sp = 0x0001 ∧ t.pc = 0x1234) = true := by decide +kernel
/-- J56: RET NZ (R279). -/
theorem test_J56 : becomes { base [(0xCFFE, 0x03), (0xCFFF, 0x03), (0x0400, 0xC0)] with f := 0x80, sp := 0xCFFE, pc := 0x0400 } (fun t =>
    t.clock = 8 ∧ t.pc = 0x0401 ∧ t.history.reverse = [.read 0x0400 0xC0, .tick 4, .tick 4]) = true := by decide +kernel
/-- J57: RETI (R280). -/
theorem test_J57 : becomes { base [(0xFFFC, 0x34), (0xFFFD, 0x12), (0x0200, 0xD9)] with sp := 0xFFFC } (fun t =>
    t.clock = 16 ∧ t.sp = 0xFFFE ∧ t.pc = 0x1234 ∧ t.ime = true ∧ t.imeNext = true ∧ t.history.reverse = [.read 0x0200 0xD9, .tick 4, .read 0xFFFC 0x34, .tick 4, .read 0xFFFD 0x12, .tick 4, .tick 4]) = true := by decide +kernel
/-- J43: RST 38h (R281). -/
theorem test_J43 : becomes { base [(0xCFFE, 0xAA), (0xCFFF, 0xAA), (0xFFFF, 0xFF)] with pc := 0xFFFF, sp := 0xD000 } (fun t =>
    t.clock = 16 ∧ t.sp = 0xCFFE ∧ t.pc = 0x0038 ∧ t.peek 0xCFFE = 0x00 ∧ t.peek 0xCFFF = 0x00) = true := by decide +kernel
/-- E6: NOP (R301). -/
theorem test_E6 : becomes { base [(0x0100, 0x00)] with pc := 0x0100 } (fun t =>
    t.clock = 4 ∧ t.pc = 0x0101 ∧ t.history.reverse = [.read 0x0100 0x00, .tick 4]) = true := by decide +kernel
/-- M3: PUSH AF (R302). -/
theorem test_M3 : becomes { base [(0x0200, 0xF5)] with a := 0x12, f := 0xB0, sp := 0xD000 } (fun t =>
    t.clock = 16 ∧ t.sp = 0xCFFE ∧ t.pc = 0x0201 ∧ t.peek 0xCFFE = 0xB0 ∧ t.peek 0xCFFF = 0x12) = true := by decide +kernel
/-- M4: PUSH HL (R302). -/
theorem test_M4 : becomes { base [(0x0200, 0xE5)] with h := 0xBE, l := 0xEF, sp := 0x0001 } (fun t =>
    t.clock = 16 ∧ t.sp = 0xFFFF ∧ t.pc = 0x0201 ∧ t.peek 0x0000 = 0xBE ∧ t.peek 0xFFFF = 0xEF) = true := by decide +kernel
/-- M7: POP HL (R303). -/
theorem test_M7 : becomes { base [(0x0000, 0xAB), (0xFFFF, 0xCD), (0x0200, 0xE1)] with sp := 0xFFFF } (fun t =>
    t.clock = 12 ∧ t.h = 0xAB ∧ t.l = 0xCD ∧ t.sp = 0x0001 ∧ t.pc = 0x0201) = true := by decide +kernel
/-- M10: POP AF (R314). -/
theorem test_M10 : becomes { base [(0xCFFE, 0x0F), (0xCFFF, 0x00), (0x0200, 0xF1)] with sp := 0xCFFE, f := 0xF0 } (fun t =>
    t.clock = 12 ∧ t.f = 0x00 ∧ t.sp = 0xD000 ∧ t.pc = 0x0201) = true := by decide +kernel
/-- M16: ADD HL,SP (R304). -/
theorem test_M16 : becomes { base [(0x0200, 0x39)] with h := 0x10, l := 0x00, sp := 0xF000 } (fun t =>
    t.clock = 8 ∧ t.f = 0x10 ∧ t.h = 0x00 ∧ t.pc = 0x0201) = true := by decide +kernel
/-- M13: ADD HL,DE (R304). -/
theorem test_M13 : becomes { base [(0x0200, 0x19)] with h := 0xFF, l := 0xFF, d := 0x00, e := 0x01, f := 0xC0 } (fun t =>
    t.clock = 8 ∧ t.f = 0xB0 ∧ t.h = 0x00 ∧ t.l = 0x00 ∧ t.pc = 0x0201) = true := by decide +kernel
/-- M18: INC DE (R305). -/
theorem test_M18 : becomes { base [(0x0200, 0x13)] with d := 0xFF, e := 0xFF } (fun t =>
    t.clock = 8 ∧ t.d = 0x00 ∧ t.e = 0x00 ∧ t.pc = 0x0201) = true := by decide +kernel
/-- M19: INC SP (R305). -/
theorem test_M19 : becomes { base [(0x0200, 0x33)] with sp := 0xFFFF } (fun t =>
    t.clock = 8 ∧ t.sp = 0x0000 ∧ t.pc = 0x0201) = true := by decide +kernel
/-- M23: DEC SP (R306). -/
theorem test_M23 : becomes { base [(0x0200, 0x3B)] with sp := 0x0000 } (fun t =>
    t.clock = 8 ∧ t.sp = 0xFFFF ∧ t.pc = 0x0201) = true := by decide +kernel
/-- M21: DEC BC (R306). -/
theorem test_M21 : becomes { base [(0x0200, 0x0B)] with b := 0x00, c := 0x00, f := 0xF0 } (fun t =>
    t.clock = 8 ∧ t.b = 0xFF ∧ t.c = 0xFF ∧ t.pc = 0x0201) = true := by decide +kernel
/-- M25: ADD SP,e8 (R307). -/
theorem test_M25 : becomes { base [(0x0200, 0xE8), (0x0201, 0x08)] with sp := 0xFFF8, f := 0xC0 } (fun t =>
    t.clock = 16 ∧ t.f = 0x30 ∧ t.sp = 0x0000 ∧ t.pc = 0x0202) = true := by decide +kernel
/-- M29: ADD SP,e8 (R307). -/
theorem test_M29 : becomes { base [(0x0200, 0xE8), (0x0201, 0x80)] with sp := 0xD080 } (fun t =>
    t.clock = 16 ∧ t.f = 0x10 ∧ t.sp = 0xD000 ∧ t.pc = 0x0202) = true := by decide +kernel
/-- M30: DI (R308). -/
theorem test_M30 : becomes { base [(0xFFFF, 0x00), (0x0200, 0xF3)] with ime := true, imeNext := true } (fun t =>
    t.clock = 4 ∧ t.pc = 0x0201 ∧ t.imeNext = false) = true := by decide +kernel
/-- M31: EI (R309). -/
theorem test_M31 : becomes (base [(0x0200, 0xFB)]) (fun t =>
    t.clock = 4 ∧ t.pc = 0x0201 ∧ t.imeNext = true) = true := by decide +kernel
/-- M32: HALT (R310). -/
theorem test_M32 : becomes (base [(0x0200, 0x76)]) (fun t =>
    t.clock = 4 ∧ t.pc = 0x0201 ∧ t.running = false) = true := by decide +kernel
/-- M51: STOP (R311). -/
theorem test_M51 : becomes (base [(0x0200, 0x10), (0x0201, 0x55)]) (fun t =>
    t.clock = 4 ∧ t.pc = 0x0202 ∧ t.stopped = true ∧ t.history.reverse = [.read 0x0200 0x10, .tick 4]) = true := by decide +kernel
/-- M35: opcode D3 (R312). -/
theorem test_M35 : becomes { base [(0x0200, 0xD3)] with f := 0xF0, a := 0x5A } (fun t =>
    t.clock = 4 ∧ t.pc = 0x0201) = true := by decide +kernel
/-- M36: opcode DB (R312). -/
theorem test_M36 : becomes { base [(0x0200, 0xDB)] with f := 0xF0, a := 0x5A } (fun t =>
    t.clock = 4 ∧ t.pc = 0x0201) = true := by decide +kernel
/-- M37: opcode DD (R312). -/
theorem test_M37 : becomes { base [(0x0200, 0xDD)] with f := 0xF0, a := 0x5A } (fun t =>
    t.clock = 4 ∧ t.pc = 0x0201) = true := by decide +kernel
/-- M38: opcode E3 (R312). -/
theorem test_M38 : becomes { base [(0x0200, 0xE3)] with f := 0xF0, a := 0x5A } (fun t =>
    t.clock = 4 ∧ t.pc = 0x0201) = true := by decide +kernel
/-- M39: opcode E4 (R312). -/
theorem test_M39 : becomes { base [(0x0200, 0xE4)] with f := 0xF0, a := 0x5A } (fun t =>
    t.clock = 4 ∧ t.pc = 0x0201) = true := by decide +kernel
/-- M40: opcode EB (R312). -/
theorem test_M40 : becomes { base [(0x0200, 0xEB)] with f := 0xF0, a := 0x5A } (fun t =>
    t.clock = 4 ∧ t.pc = 0x0201) = true := by decide +kernel
/-- M41: opcode EC (R312). -/
theorem test_M41 : becomes { base [(0x0200, 0xEC)] with f := 0xF0, a := 0x5A } (fun t =>
    t.clock = 4 ∧ t.pc = 0x0201) = true := by decide +kernel
/-- M42: opcode ED (R312). -/
theorem test_M42 : becomes { base [(0x0200, 0xED)] with f := 0xF0, a := 0x5A } (fun t =>
    t.clock = 4 ∧ t.pc = 0x0201) = true := by decide +kernel
/-- M43: opcode F4 (R312). -/
theorem test_M43 : becomes { base [(0x0200, 0xF4)] with f := 0xF0, a := 0x5A } (fun t =>
    t.clock = 4 ∧ t.pc = 0x0201) = true := by decide +kernel
/-- M44: opcode FC (R312). -/
theorem test_M44 : becomes { base [(0x0200, 0xFC)] with f := 0xF0, a := 0x5A } (fun t =>
    t.clock = 4 ∧ t.pc = 0x0201) = true := by decide +kernel
/-- M45: opcode FD (R312). -/
theorem test_M45 : becomes { base [(0x0200, 0xFD)] with f := 0xF0, a := 0x5A } (fun t =>
    t.clock = 4 ∧ t.pc = 0x0201) = true := by decide +kernel

/-! ## Whole steps (rules R343 to R351) -/

/-- A baseline state with the bytes at the default `IE_ADDR` and `IF_ADDR` set. -/
def pending (ie if_ : Byte) (cells : List (Nat × Byte)) : State := base ((0xFFFF, ie) :: (0xFF0F, if_) :: cells)

/-- R348, GBJS 8 "Interrupt dispatch": IE = 01, IF = 01, IME = 1. -/
theorem test_dispatch : becomes { pending 0x01 0x01 [] with ime := true, imeNext := true } (fun t =>
    t.pc = 0x0040 ∧ t.sp = 0xCFFE ∧ t.peek 0xCFFF = 0x02 ∧ t.peek 0xCFFE = 0x00 ∧ t.peek 0xFF0F = 0x00 ∧ t.ime = false ∧
    t.imeNext = false ∧ t.clock = 20) = true := by decide +kernel
/-- R346: the lowest set bit wins; the other bits of IF are written back as read. -/
theorem test_dispatch_priority : becomes { pending 0x1F 0xF4 [] with ime := true, running := false } (fun t =>
    t.pc = 0x0050 ∧ t.peek 0xFF0F = 0xF0 ∧ t.running = true) = true := by decide +kernel
/-- R347, GBJS 8 "HALT wake": the core resumes at the same PC; the pending bit stays. -/
theorem test_wake : becomes { pending 0x04 0x04 [(0x0200, 0x04)] with running := false } (fun t =>
    t.running = true ∧ t.pc = 0x0201 ∧ t.b = 0x01 ∧ t.peek 0xFF0F = 0x04 ∧ t.clock = 4) = true := by decide +kernel
/-- R349: a halted core that nothing wakes polls and idles. -/
theorem test_halted_idle : becomes { pending 0x04 0x08 [] with running := false } (fun t =>
    t.running = false ∧ t.pc = 0x0200 ∧ t.clock = 4 ∧
    t.history.reverse = [.read 0xFFFF 0x04, .read 0xFF0F 0x08, .tick 4]) = true := by decide +kernel
/-- R344: a blocked core only ticks, whatever is pending. -/
theorem test_blocked : becomes { pending 0x01 0x01 [] with ime := true, blocked := true } (fun t =>
    t.pc = 0x0200 ∧ t.clock = 4 ∧ t.history.reverse = [.tick 4]) = true := by decide +kernel
/-- R351: a breakpoint traps before the fetch. -/
theorem test_breakpoint : becomes { base [] with execBp := [0x0200], config := { defaultConfig with debugPresent := true } } (fun t =>
    t.trapped = true ∧ t.pc = 0x0200 ∧ t.clock = 0 ∧ t.history = []) = true := by decide +kernel
/-- R351: the poll, the wake and the commit of the step have been made when the breakpoint traps. -/
theorem test_breakpoint_after_wake : becomes { pending 0x01 0x01 [] with
      running := false, execBp := [0x0200], config := { defaultConfig with debugPresent := true } } (fun t =>
    t.trapped = true ∧ t.running = true ∧ t.pc = 0x0200 ∧ t.clock = 0 ∧
    t.history.reverse = [.read 0xFFFF 0x01, .read 0xFF0F 0x01]) = true := by decide +kernel
/-- R66, R74: a byte the environment writes during a read-modify-write lies under the core's own write. -/
theorem test_environment_between : becomes { base [(0x0200, 0x34), (0xC000, 0x10)] with env := [⟨5, .write 0xC000 0x77⟩] } (fun t =>
    t.peek 0xC000 = 0x11 ∧ t.env = []) = true := by decide +kernel
/-- R72: an operand byte the environment stores during the opcode's tick is the one that is read. -/
theorem test_operand_seen : becomes { base [(0x0200, 0x3E), (0x0201, 0x10)] with env := [⟨4, .write 0x0201 0x77⟩] } (fun t =>
    t.a = 0x77) = true := by decide +kernel
/-- A word placed where the next step fetches runs in that step: SRL A at the reset PC, A = 01 (R245). -/
theorem test_fetch_word : becomes (State.reset.withFetchWord 16 0xCB3F) (fun t =>
    t.a = 0x00 ∧ t.f = 0x90 ∧ t.pc = 0x0102 ∧ t.clock = 8) = true := by decide +kernel

/-! ## Witnesses: states and operands that meet the hypotheses of the statements -/

/-- A state whose environment does nothing lets every byte alone. -/
theorem spares_of_no_env {s : State} (h : s.env = []) (n : Nat) (a : Word) : s.EnvSpares n a := by
  intro x hx; rw [h] at hx; cases hx

theorem idle_of_no_env {s : State} (h : s.env = []) (n : Nat) : s.EnvIdle n := by
  intro x hx; rw [h] at hx; cases hx

/-- Whether the bytes at PC decode to an instruction. -/
def decodesAtPc (s : State) (i : Instr) : Bool :=
  match decode [s.peek s.pc, s.peek (s.pc + 1), s.peek (s.pc + 2)] with
  | .ok (j, _) => j == i
  | .error _ => false

theorem atPc_of_no_env {s : State} {i : Instr} (h : s.env = []) (hd : decodesAtPc s i = true) : s.AtPc i := by
  refine ⟨spares_of_no_env h _ _, spares_of_no_env h _ _, ?_⟩
  unfold decodesAtPc at hd
  split at hd
  · next j rest hj => exact ⟨rest, by rw [hj, beq_iff_eq.mp hd]⟩
  · cases hd

/-- The environment may act and still spare a byte: it writes another one, or it acts later. -/
theorem witness_EnvSpares : State.EnvSpares { base [] with env := [⟨4, .write 0xC001 0x77⟩, ⟨13, .write 0xC000 0x77⟩] } 12 0xC000 ∧
    State.EnvIdle { base [] with env := [⟨13, .setBlocked true⟩] } 12 := by
  unfold State.EnvSpares State.EnvIdle; decide +kernel

/-- An address an instruction does not store to, beside one it does: `KeepsMemory` and `Stores` have instances. -/
theorem witness_Frame : (0xC001 : Word) ∉ [(base []).hl] ∧ Reg8.c ∉ [Reg8.b] ∧ (base []).hl = 0xC000 := by decide +kernel

theorem witness_StepKeepsInv : (pending 0x01 0x01 [(0x0200, 0x34)]).Inv ∧
    (after (pending 0x01 0x01 [(0x0200, 0x34)])).isSome = true := by
  unfold State.Inv Memory.wf; decide +kernel

theorem witness_DecodeInvertsEncode : (Instr.popRr .hl).wellFormed = true ∧ (Instr.setBHl 7).wellFormed = true := by decide

/-- The two clauses: an instruction other than STOP, and STOP with a pad byte that is not zero. -/
theorem witness_EncodeInvertsDecode : decode [0x3E, 0x42, 0x00] = .ok (.ldRD8 .a 0x42, [0x00]) ∧ (.ldRD8 .a 0x42 : Instr) ≠ .stop ∧
    decode [0x10, 0x55] = .ok (.stop, []) := ⟨rfl, by decide, rfl⟩

/-- One instruction of each length. -/
theorem witness_LengthByFirstByte : decode [0x00, 0x01] = .ok (.nop, [0x01]) ∧ decode [0x3E, 0x42] = .ok (.ldRD8 .a 0x42, []) ∧
    decode [0xC3, 0x34, 0x12] = .ok (.jpA16 0x1234, []) := ⟨rfl, rfl, rfl⟩

/-- A program byte at 0x0200 for the step statements: `LD A,d8` with its operand. -/
def ldAt (ie if_ : Byte) : State := pending ie if_ [(0x0200, 0x3E), (0x0201, 0x42)]

/-- The three ways to the instruction: no poll, a poll that finds nothing, a poll that only wakes. -/
theorem witness_StepRunsDecodedInstruction :
    (State.AtPc (ldAt 0x01 0x01) (.ldRD8 .a 0x42) ∧ (ldAt 0x01 0x01).running = true ∧ (ldAt 0x01 0x01).ime = false ∧
      (ldAt 0x01 0x01).blocked = false ∧ (ldAt 0x01 0x01).stopped = false ∧ (ldAt 0x01 0x01).config.debugPresent = false) ∧
    (State.AtPc { ldAt 0x01 0x02 with ime := true } (.ldRD8 .a 0x42) ∧ State.NonePending { ldAt 0x01 0x02 with ime := true }) ∧
    (State.AtPc { ldAt 0x80 0x80 with running := false } (.ldRD8 .a 0x42) ∧
      ¬ State.NonePending { ldAt 0x80 0x80 with running := false }) := by
  refine ⟨⟨atPc_of_no_env rfl (by decide +kernel), rfl, rfl, rfl, rfl, rfl⟩, ⟨atPc_of_no_env rfl (by decide +kernel), ?_⟩,
    ⟨atPc_of_no_env rfl (by decide +kernel), ?_⟩⟩ <;> unfold State.NonePending <;> decide +kernel

/-- The breakpoint premise in its other form: the debug layer is present, and PC is not marked. -/
theorem witness_Ready : State.Ready { ldAt 0 0 with execBp := [0x0201], config := { defaultConfig with debugPresent := true } } :=
  ⟨rfl, rfl, rfl, .inr (by decide +kernel)⟩

/-- Blocked, stopped, and halted with nothing enabled. -/
theorem witness_SuspendedCoreOnlyTicks : State.blocked { base [] with blocked := true } = true ∧
    State.stopped { base [] with stopped := true } = true ∧ State.NonePending { pending 0x01 0xFE [] with running := false } := by
  refine ⟨rfl, rfl, ?_⟩
  unfold State.NonePending; decide +kernel

theorem witness_HaltWakesWithoutDispatch : ¬ State.NonePending { pending 0x80 0x80 [] with running := false } ∧
    State.AtPc { pending 0x80 0x80 [] with running := false } .nop := by
  refine ⟨?_, atPc_of_no_env rfl (by decide +kernel)⟩
  unfold State.NonePending; decide +kernel

/-- The lowest and the highest source, and stack addresses that are not `IF_ADDR`. -/
theorem witness_InterruptDispatch : State.Selects { pending 0xFF 0x01 [] with ime := true } 0 ∧
    State.Selects { pending 0xFF 0x80 [] with ime := true } 7 ∧ 12 ≤ (pending 0xFF 0x80 []).config.intDispatchTicks ∧
    (pending 0xFF 0x80 []).config.ifAddr ≠ (pending 0xFF 0x80 []).sp - 1 ∧
    (pending 0xFF 0x80 []).config.ifAddr ≠ (pending 0xFF 0x80 []).sp - 2 := by
  unfold State.Selects; decide +kernel

/-- The state EI leaves with source 0 pending, NOP at PC; after that NOP the source is selected. -/
def afterEi : State := { pending 0x01 0x01 [] with imeNext := true }

theorem witness_EnableTakesOneMoreInstruction : (base []).ime = false ∧ afterEi.Ready ∧ afterEi.ime = false ∧ afterEi.imeNext = true ∧
    afterEi.AtPc .nop ∧ Instr.nop ≠ .di ∧ ∃ t, exec .nop afterEi.fetched = .next t ∧ t.blocked = false ∧ t.stopped = false ∧
      t.Selects 0 := by
  refine ⟨rfl, ⟨rfl, rfl, rfl, .inl rfl⟩, rfl, rfl, atPc_of_no_env rfl (by decide +kernel), by decide, _, rfl, ?_⟩
  unfold State.Selects; decide +kernel

/-- The same with DI at PC, under `DI_DELAYED` (log entry 21): the corner of the statement that is the model's choice. -/
def afterEiDi : State := { pending 0x01 0x01 [(0x0200, 0xF3)] with imeNext := true }

theorem witness_EnableTakesOneMoreInstruction_di : afterEiDi.Ready ∧ afterEiDi.ime = false ∧ afterEiDi.imeNext = true ∧
    afterEiDi.AtPc .di ∧ afterEiDi.config.diDelayed = true ∧
    ∃ t, exec .di afterEiDi.fetched = .next t ∧ t.ime = true ∧ t.imeNext = false ∧ t.blocked = false ∧ t.stopped = false ∧
      t.Selects 0 := by
  refine ⟨⟨rfl, rfl, rfl, .inl rfl⟩, rfl, rfl, atPc_of_no_env rfl (by decide +kernel), rfl, _, rfl, rfl, rfl, rfl, rfl, ?_⟩
  unfold State.Selects; decide +kernel

/-- DI executed with IME = 1: a source pending afterwards, and none pending afterwards. -/
theorem witness_DisableLeavesOneWindow : defaultConfig.diDelayed = true ∧
    (∃ t, exec .di { pending 0x01 0x01 [] with ime := true } = .next t ∧ t.blocked = false ∧ t.stopped = false ∧ t.Selects 0) ∧
    (∃ t, exec .di { pending 0x01 0x02 [] with ime := true } = .next t ∧ t.Ready ∧ t.NonePending ∧ t.AtPc .nop) := by
  refine ⟨rfl, ⟨_, rfl, ?_⟩, _, rfl, ⟨rfl, rfl, rfl, .inl rfl⟩, ?_, atPc_of_no_env rfl (by decide +kernel)⟩
  · unfold State.Selects; decide +kernel
  · unfold State.NonePending; decide +kernel

/-- The debug layer is present, and the instruction at PC is marked. -/
def marked (ie if_ : Byte) : State :=
  { ldAt ie if_ with execBp := [0x0200], config := { defaultConfig with debugPresent := true } }

/-- At a breakpoint on the three paths (no poll, a poll that finds nothing, a poll that only wakes), and one just resolved. -/
theorem witness_BreakpointTrapsBeforeTheFetch :
    ((marked 1 1).running = true ∧ (marked 1 1).ime = false ∧ (marked 1 1).pc ∈ (marked 1 1).execBp ∧
      (marked 1 1).config.debugPresent = true) ∧
    (State.running { marked 1 2 with ime := true } = true ∧ State.NonePending { marked 1 2 with ime := true }) ∧
    (State.ime { marked 1 1 with running := false } = false ∧ ¬ State.NonePending { marked 1 1 with running := false }) ∧
    State.AtPc { marked 1 1 with running := false, trapResolved := true } (.ldRD8 .a 0x42) := by
  refine ⟨by decide +kernel, ⟨rfl, ?_⟩, ⟨rfl, ?_⟩, atPc_of_no_env rfl (by decide +kernel)⟩ <;>
    unfold State.NonePending <;> decide +kernel

theorem witness_EndlessJumpChangesOnlyTheClock : State.Ready (base [(0x0200, 0x18), (0x0201, 0xFE)]) ∧
    (base [(0x0200, 0x18), (0x0201, 0xFE)]).env = [] ∧ (base [(0x0200, 0x18), (0x0201, 0xFE)]).peek 0x0200 = 0x18 ∧
    (base [(0x0200, 0x18), (0x0201, 0xFE)]).peek 0x0201 = 0xFE := by
  refine ⟨⟨rfl, rfl, rfl, .inl rfl⟩, rfl, by decide +kernel, by decide +kernel⟩

theorem witness_ClockOnlyAdvances : (after (base [])).isSome = true ∧ (base []).config.idleTick % 4 = 0 ∧
    (base []).config.undefTicks % 4 = 0 ∧ (base []).config.intDispatchTicks % 4 = 0 := by decide +kernel

/-- `exec` answers a next state for an instruction that writes none of the control state, and for each that does. -/
theorem witness_ControlStateWriters : ([Instr.nop, .halt, .stop, .di, .ei, .reti].all fun i =>
    match exec i (base []) with | .next _ => true | _ => false) = true ∧ (base []).EnvIdle 100 :=
  ⟨by decide +kernel, idle_of_no_env rfl _⟩

/-- A listed instruction, an unlisted one, and a prefixed pair. -/
theorem witness_FlagTableObeyed : resolvePrefix .daa = some .daa ∧ flagTable defaultConfig .daa ≠ none ∧
    resolvePrefix .nop = some .nop ∧ flagTable defaultConfig .nop = none ∧
    resolvePrefix (.prefixCb 0x37) = some (.swapR .a) ∧ flagTable defaultConfig (.swapR .a) ≠ none := by decide +kernel

theorem witness_ClockTableObeyed : resolvePrefix (.prefixCb 0x46) = some (.bitBHl 0) ∧
    resolvePrefix (.retCc .z) = some (.retCc .z) := by decide +kernel

/-- Each clause: an instruction that transfers control nowhere, STOP, one that leaves SP alone. -/
theorem witness_PcAndSpWriters : transfers .daa 0 = false ∧ transfers .stop 0 = false ∧ transfers (.retCc .z) 0 = false ∧
    writesSp .daa = false ∧ resolvePrefix .stop = some .stop := by decide +kernel

theorem witness_EveryAccessHasItsTick : (match exec .incHl (base []) with
    | .next t => t.history.reverse == [.tick 4, .read 0xC000 0, .tick 4, .write 0xC000 1, .tick 4]
    | _ => false) = true := by decide +kernel

theorem witness_ShiftedClockGivesShiftedStep : (ldAt 0 0).env = [] ∧ (after (ldAt 0 0)).isSome = true := by decide +kernel

/-- The pair operands other than SP, and SP itself. -/
theorem witness_LoadWord_WordArithmetic : Pair16.bc ≠ .sp ∧ Pair16.de ≠ .sp ∧ Pair16.hl ≠ .sp := by decide

/-- Both signs of the operation before, with and without the corrections. -/
theorem witness_DecimalAdjust : flagN (base []).f = false ∧ flagN (State.f { base [] with f := 0x70 }) = true := by decide +kernel

/-- Every condition, true and false. -/
theorem witness_Conditions : flagZ 0x00 = false ∧ flagZ 0x80 = true ∧ flagC 0x00 = false ∧ flagC 0x10 = true := by decide

/-- The lowest and the highest bit number. -/
theorem witness_BitResetAndSet : (0 : Nat) < 8 ∧ (7 : Nat) < 8 ∧ (0 : Nat) ≠ (7 : BitVec 3).toNat := by decide

theorem witness_NopAndUndefinedOpcodes : (Instr.undefD3, (0xD3 : Byte)) ∈ [(Instr.undefD3, (0xD3 : Byte)), (.undefFD, 0xFD)] := by
  decide

/-- STOP's holds clause: an environment that does nothing meanwhile. -/
theorem witness_EnableHaltStop : (base []).EnvIdle 4 := idle_of_no_env rfl _

end Sys2Proof.Tests
end

/-! # Proofs: the invariant of the machine and the state after reset -/

namespace Sys2Proof.Machine

/-- A store at an address of the bus keeps the invariant: the address is below 65536. -/
theorem inv_setMem_write {s : State} (a : Word) (v : Byte) (h : s.Inv) : (s.setMem (s.mem.write a.toNat v)).Inv :=
  ⟨h.1, Memory.wf_write _ _ _ h.2 a.isLt⟩

theorem applyEnv_keeps_inv (x : EnvAction) (s : State) (h : s.Inv) : (applyEnv x s).Inv := by
  cases x with
  | write a v => exact inv_setMem_write a v h
  | raise i => exact inv_setMem_write _ _ h
  | setBlocked b => exact h
  | wakeStop => exact h

/-- Every shared operation keeps the invariant: F is masked whenever it is written, and memory is changed by stores alone. -/
theorem closed_inv : Closed State.Inv where
  read _ _ h := h
  write _ a v h := inv_setMem_write a v h
  tick _ _ h := runEnv_preserves State.Inv (fun _ _ h => h) applyEnv_keeps_inv _ _ h
  setReg _ _ _ h := by simpa [State.Inv] using h
  setF s v h := ⟨setF_low s v, h.2⟩
  setPc _ _ h := h
  setSp _ _ h := h
  setIme _ _ h := h
  setImeNext _ _ h := h
  setRunning _ _ h := h
  setStopped _ _ h := h

/-- Settles O4: a step is built from operations that each keep the invariant. -/
theorem stepKeepsInv : Obligations.StepKeepsInv :=
  fun _ _ hs hstep => closed_inv.step (fun _ _ h => h) (fun _ _ h => h) hstep hs

/-- Settles O3: the default F is masked, and the reset memory lists nothing. -/
theorem resetMeetsInv : Obligations.ResetMeetsInv := ⟨by decide, Memory.wf_nil⟩

/-- Settles O2: the literals of `State.reset` are compared with the default column. -/
theorem resetStateHasTheDefaults : Obligations.ResetStateHasTheDefaults := by
  unfold Obligations.ResetStateHasTheDefaults
  decide

end Sys2Proof.Machine

/-! # Proofs: what an instruction can do, and which instructions write PC, SP and the control state -/

namespace Sys2Proof.Machine

/-- The eleven undefined opcodes (R99). -/
def isUndefined (i : Instr) : Bool :=
  match i with
  | .undefD3 | .undefDB | .undefDD | .undefE3 | .undefE4 | .undefEB | .undefEC | .undefED | .undefF4 | .undefFC
  | .undefFD => true
  | _ => false

/-- The bytes by which an instruction that does not transfer control advances PC (R25): its length, for STOP the parameter
`STOP_LENGTH` (R311). -/
def pcLength (cfg : Config) (i : Instr) : Nat :=
  match i with
  | .stop => cfg.stopLength
  | i => (encode i).length

theorem pcLength_eq (cfg : Config) (i : Instr) :
    pcLength cfg i = if i = .stop then cfg.stopLength else (encode i).length := by
  cases i <;> rfl

/-- `u` is reached from `s` by operations open to instruction `i`, PC apart. Bus accesses, machine cycles and writes of general
registers are open to every instruction; each other write only to the instructions that the spec lists for it. -/
inductive Performs (i : Instr) (s : State) : State → Prop
  | start : Performs i s s
  | read {u} (a : Word) : Performs i s u → Performs i s (u.record (.read a (u.peek a)))
  | write {u} (a : Word) (v : Byte) : Performs i s u → Performs i s (u.busWrite a v)
  | cycle {u} : Performs i s u → Performs i s (u.tick 4)
  | undefinedTick {u} : isUndefined i = true → Performs i s u → Performs i s (u.tick s.config.undefTicks)
  | setReg {u} (r : Reg8) (v : Byte) : Performs i s u → Performs i s (u.setReg r v)
  | setF {u} (v : Byte) : (flagTable s.config i).isSome = true → Performs i s u → Performs i s (u.setF v)
  | setSp {u} (v : Word) : writesSp i = true → Performs i s u → Performs i s (u.setSp v)
  | setIme {u} (v : Bool) : i = .di ∨ i = .reti → Performs i s u → Performs i s (u.setIme v)
  | setImeNext {u} (v : Bool) : i = .di ∨ i = .ei ∨ i = .reti → Performs i s u → Performs i s (u.setImeNext v)
  | halt {u} : i = .halt → Performs i s u → Performs i s (u.setRunning false)
  | stop {u} : i = .stop → Performs i s u → Performs i s (u.setStopped true)

namespace Performs
variable {i : Instr} {s u : State}

theorem begin2 : Performs i s s.begin2 := by
  rw [begin2_eq]
  simpa using ((start.cycle).read (s.pc + 1)).cycle

theorem begin3 : Performs i s s.begin3 := by
  rw [begin3_eq]
  exact (begin2.read _).cycle

theorem push16 (v : Word) (hsp : writesSp i = true) (h : Performs i s u) : Performs i s (u.push16 v) := by
  rw [push16_eq]
  exact (((((h.setSp _ hsp).write _ _).cycle).setSp _ hsp).write _ _).cycle

theorem pop16 (hsp : writesSp i = true) (h : Performs i s u) : Performs i s u.pop16.2 := by
  rw [pop16_snd, popMiddle_eq]
  exact ((((h.read _).cycle.setSp _ hsp).read _).cycle).setSp _ hsp

theorem setBc (v : Word) (h : Performs i s u) : Performs i s (u.setBc v) := (h.setReg _ _).setReg _ _
theorem setDe (v : Word) (h : Performs i s u) : Performs i s (u.setDe v) := (h.setReg _ _).setReg _ _
theorem setHl (v : Word) (h : Performs i s u) : Performs i s (u.setHl v) := (h.setReg _ _).setReg _ _

theorem setPair16 (p : Pair16) (v : Word) (hsp : p = .sp → writesSp i = true) (h : Performs i s u) :
    Performs i s (u.setPair16 p v) := by
  cases p with
  | bc => exact h.setBc v
  | de => exact h.setDe v
  | hl => exact h.setHl v
  | sp => exact h.setSp v (hsp rfl)

theorem setPairStk (p : PairStk) (v : Word) (hf : p = .af → (flagTable s.config i).isSome = true) (h : Performs i s u) :
    Performs i s (u.setPairStk p v) := by
  cases p with
  | bc => exact h.setBc v
  | de => exact h.setDe v
  | hl => exact h.setHl v
  | af => exact (h.setReg _ _).setF _ (hf rfl)

theorem readCycle (a : Word) (h : Performs i s u) : Performs i s ((u.record (.read a (u.peek a))).tick 4) := (h.read a).cycle

/-! ## What the operations of an instruction leave alone -/

theorem pc (h : Performs i s u) : u.pc = s.pc := by induction h <;> simp_all

theorem keepsDebug (h : Performs i s u) : KeepsDebug s u := by induction h <;> simp_all [KeepsDebug]

theorem f (h : Performs i s u) (hi : flagTable s.config i = none) : u.f = s.f := by induction h <;> simp_all

theorem sp (h : Performs i s u) (hi : writesSp i = false) : u.sp = s.sp := by induction h <;> simp_all

theorem running (h : Performs i s u) (hi : i ≠ .halt) : u.running = s.running := by induction h <;> simp_all

theorem ime (h : Performs i s u) (hd : i ≠ .di) (hr : i ≠ .reti) : u.ime = s.ime := by induction h <;> simp_all

theorem imeNext (h : Performs i s u) (hd : i ≠ .di) (he : i ≠ .ei) (hr : i ≠ .reti) : u.imeNext = s.imeNext := by
  induction h <;> simp_all

theorem heldOver (h : Performs i s u) (hi : i ≠ .stop) : HeldOver s u := by induction h <;> simp_all

/-- Every tick is a machine cycle of 4 or `UNDEF_TICKS`, so the phase of the clock is kept (R27). -/
theorem clock_phase (h : Performs i s u) (hu : s.config.undefTicks % 4 = 0) : u.clock % 4 = s.clock % 4 := by
  induction h <;> simp_all
  omega

end Performs

/-- How an instruction completes: after the operations open to it, PC is advanced by its length, or control is transferred
(R25). -/
inductive Completes (i : Instr) (s : State) : Prop
  | advance {u} (h : Performs i s u) (hx : exec i s = .next (u.advance (pcLength s.config i)))
  | transfer {u} (v : Word) (h : Performs i s u) (ht : transfers i s.f = true) (hx : exec i s = .next (u.setPc v))

open Performs in
/-- Every table entry but PREFIX CB completes; the cases follow the shapes the rules share. -/
theorem exec_completes (i : Instr) (s : State) (hi : ∀ op2, i ≠ .prefixCb op2) : Completes i s := by
  have f3 : s.begin3.f = s.f := by simp
  have f2 : s.begin2.f = s.f := by simp
  have f1 : s.begin1.cycle.f = s.f := by simp
  cases i with
  | prefixCb op2 => exact absurd rfl (hi op2)
  | jpCcA16 cc a =>
    by_cases hc : condHolds cc s.begin3.f = true
    · exact .transfer a begin3.cycle (f3 ▸ hc) (if_pos hc)
    · exact .advance begin3 (if_neg hc)
  | jrCcE8 cc e =>
    by_cases hc : condHolds cc s.begin2.f = true
    · exact .transfer _ begin2.cycle (f2 ▸ hc) (if_pos hc)
    · exact .advance begin2 (if_neg hc)
  | callCcA16 cc a =>
    by_cases hc : condHolds cc s.begin3.f = true
    · exact .transfer a (begin3.cycle.push16 _ rfl) (f3 ▸ hc) (if_pos hc)
    · exact .advance begin3 (if_neg hc)
  | retCc cc =>
    by_cases hc : condHolds cc s.begin1.cycle.f = true
    · exact .transfer _ (start.cycle.cycle.pop16 rfl).cycle (f1 ▸ hc) (if_pos hc)
    · exact .advance start.cycle.cycle (if_neg hc)
  | undefD3 | undefDB | undefDD | undefE3 | undefE4 | undefEB | undefEC | undefED | undefF4 | undefFC | undefFD =>
    exact .advance (start.undefinedTick rfl) rfl
  | ldRrD16 p v => exact .advance (begin3.setPair16 p v (by rintro rfl; rfl)) rfl
  | incRr p => exact .advance (start.cycle.setPair16 p _ (by rintro rfl; rfl)).cycle rfl
  | decRr p => exact .advance (start.cycle.setPair16 p _ (by rintro rfl; rfl)).cycle rfl
  | addHlRr p => exact .advance ((start.cycle.setHl _).setF _ rfl).cycle rfl
  | ldHlSpE8 e => exact .advance ((begin2.setF _ rfl).setHl _).cycle rfl
  | popRr p => exact .advance ((start.cycle.pop16 rfl).setPairStk p _ (by rintro rfl; rfl)) rfl
  | popAf => exact .advance (((start.cycle.pop16 rfl).setReg _ _).setF _ rfl) rfl
  | pushRr p => exact .advance (start.cycle.cycle.push16 _ rfl) rfl
  | callA16 a => exact .transfer a (begin3.cycle.push16 _ rfl) rfl rfl
  | rst n => exact .transfer _ (start.cycle.cycle.push16 _ rfl) rfl rfl
  | ret => exact .transfer _ (start.cycle.pop16 rfl).cycle rfl rfl
  | reti =>
    exact .transfer s.begin1.pop16.1
      (((start.cycle.pop16 rfl).cycle.setImeNext true (.inr (.inr rfl))).setIme (_ || _) (.inr rfl)) rfl rfl
  | ldAHli | ldAHld => exact .advance (((start.cycle.readCycle _).setReg _ _).setHl _) rfl
  | ldHliA | ldHldA => exact .advance ((start.cycle.write _ _).cycle.setHl _) rfl
  | incHl | decHl => exact .advance (((start.cycle.readCycle _).setF _ rfl).write _ _).cycle rfl
  | addAHl | adcAHl | subHl | sbcAHl | andHl | xorHl | orHl =>
    exact .advance (((start.cycle.readCycle _).setReg _ _).setF _ rfl) rfl
  | cpHl => exact .advance ((start.cycle.readCycle _).setF _ rfl) rfl
  | addAR r | adcAR r | subR r | sbcAR r | andR r | xorR r | orR r | incR r | decR r | daa | cpl | rlca | rrca | rla | rra =>
    exact .advance ((start.cycle.setReg _ _).setF _ rfl) rfl
  | addAD8 n | adcAD8 n | subD8 n | sbcAD8 n | andD8 n | xorD8 n | orD8 n =>
    exact .advance ((begin2.setReg _ _).setF _ rfl) rfl
  | cpR r | scf | ccf => exact .advance (start.cycle.setF _ rfl) rfl
  | cpD8 n | bitBR n r => exact .advance (begin2.setF _ rfl) rfl
  | rlcR r | rrcR r | rlR r | rrR r | slaR r | sraR r | swapR r | srlR r =>
    exact .advance ((begin2.setReg _ _).setF _ rfl) rfl
  | rlcHl | rrcHl | rlHl | rrHl | slaHl | sraHl | swapHl | srlHl =>
    exact .advance (((begin2.readCycle _).setF _ rfl).write _ _).cycle rfl
  | bitBHl n => exact .advance ((begin2.readCycle _).setF _ rfl) rfl
  | resBHl n | setBHl n => exact .advance ((begin2.readCycle _).write _ _).cycle rfl
  | ldRHl dst | ldABc | ldADe | ldAC => exact .advance ((start.cycle.readCycle _).setReg _ _) rfl
  | ldhAA8 n => exact .advance ((begin2.readCycle _).setReg _ _) rfl
  | ldAA16 a => exact .advance ((begin3.readCycle _).setReg _ _) rfl
  | ldHlR r | ldBcA | ldDeA | ldCA => exact .advance (start.cycle.write _ _).cycle rfl
  | ldHlD8 n | ldhA8A n => exact .advance (begin2.write _ _).cycle rfl
  | ldA16A a => exact .advance (begin3.write _ _).cycle rfl
  | ldA16Sp a => exact .advance ((begin3.write _ _).cycle.write _ _).cycle rfl
  | ldRR dst src => exact .advance (start.cycle.setReg _ _) rfl
  | ldRD8 r n | resBR n r | setBR n r => exact .advance (begin2.setReg _ _) rfl
  | ldSpHl => exact .advance (start.cycle.setSp _ rfl).cycle rfl
  | addSpE8 e => exact .advance ((begin2.setF _ rfl).cycle.cycle.setSp _ rfl) rfl
  | jpA16 a => exact .transfer a begin3.cycle rfl rfl
  | jrE8 e => exact .transfer _ begin2.cycle rfl rfl
  | jpHl => exact .transfer _ start.cycle rfl rfl
  | nop => exact .advance start.cycle rfl
  | di => exact .advance ((start.cycle.setImeNext false (.inl rfl)).setIme (_ && _) (.inl rfl)) rfl
  | ei => exact .advance (start.cycle.setImeNext true (.inr (.inl rfl))) rfl
  | halt => exact .advance (start.cycle.halt rfl) rfl
  | stop => exact .advance (start.cycle.stop rfl) (by simp [exec, execStop, pcLength])

/-- The instruction that a table entry performs is the entry itself or one of the secondary table, never PREFIX CB (R100). -/
theorem resolvePrefix_spec {i j : Instr} (h : resolvePrefix i = some j) :
    (∀ op2, j ≠ .prefixCb op2) ∧ (j = i ∨ isSecondary j = true) := by
  cases i with
  | prefixCb op2 =>
    obtain ⟨k, hk, hsec⟩ := secondaryEntry_isSecondary op2
    obtain rfl : j = k := Option.some.inj (h.symm.trans hk)
    exact ⟨isSecondary_ne_prefix hsec, .inr hsec⟩
  | _ =>
    cases h
    exact ⟨nofun, .inl rfl⟩

theorem resolvePrefix_some (i : Instr) : ∃ j, resolvePrefix i = some j := by
  cases i with
  | prefixCb op2 =>
    obtain ⟨j, hj, -⟩ := secondaryEntry_isSecondary op2
    exact ⟨j, hj⟩
  | _ => exact ⟨_, rfl⟩

theorem ne_of_resolvePrefix {i j k : Instr} (hj : resolvePrefix i = some j) (hk : isSecondary k = false) (hi : i ≠ k) :
    j ≠ k := by
  rintro rfl
  obtain ⟨-, rfl | hsec⟩ := resolvePrefix_spec hj
  · exact hi rfl
  · exact absurd hsec (by simp [hk])

/-- Everything `exec` can do, for every entry of the tables: operations open to the instruction it performs, then PC. -/
theorem exec_cases {i j : Instr} {s t : State} (hj : resolvePrefix i = some j) (hx : exec i s = .next t) :
    ∃ u v, Performs j s u ∧ t = u.setPc v ∧
      (transfers j s.f = false → v = s.pc + BitVec.ofNat 16 (pcLength s.config j)) := by
  rw [exec_of_resolvePrefix s hj] at hx
  cases exec_completes j s (resolvePrefix_spec hj).1 with
  | advance hu ha => exact ⟨_, _, hu, Host.Outcome.next.inj (hx.symm.trans ha), fun _ => by rw [hu.pc]⟩
  | transfer v hu ht hv => exact ⟨_, v, hu, Host.Outcome.next.inj (hx.symm.trans hv), by simp [ht]⟩

/-- Settles O25: PC is written last, and no other operation that the instruction performs touches it; SP is open to its writers. -/
theorem pcAndSpWriters : Obligations.PcAndSpWriters := by
  intro i j s t hj hx
  obtain ⟨u, v, hu, rfl, hpc⟩ := exec_cases hj hx
  rw [← pcLength_eq]
  exact ⟨hpc, fun hsp => hu.sp hsp⟩

theorem exec_halt_running {s t : State} (hx : exec .halt s = .next t) : t.running = false := by
  obtain rfl := Host.Outcome.next.inj hx
  rfl

/-- Where the environment is idle no instruction changes `blocked`, STOP included (R32). -/
theorem exec_keeps_blocked {i : Instr} {s t : State} (hx : exec i s = .next t) (hidle : s.EnvIdle t.clock) :
    t.blocked = s.blocked := by
  by_cases hi : i = .stop
  · subst hi
    obtain rfl := Host.Outcome.next.inj hx
    obtain ⟨-, hb, -⟩ := (heldOver_tick 4 (heldOver_self s)).keepsHolds hidle
    exact hb
  · obtain ⟨j, hj⟩ := resolvePrefix_some i
    obtain ⟨u, v, hu, rfl, -⟩ := exec_cases hj hx
    obtain ⟨-, hb, -⟩ := (hu.heldOver (ne_of_resolvePrefix hj rfl hi)).keepsHolds hidle
    exact hb

/-- Settles O22: each write of the control state is open to the instructions that the statement names. No secondary instruction
is one of them, so the same holds of PREFIX CB. -/
theorem controlStateWriters : Obligations.ControlStateWriters := by
  intro i s t hx
  have hblocked := exec_keeps_blocked hx
  obtain ⟨j, hj⟩ := resolvePrefix_some i
  have hne {k : Instr} (hk : isSecondary k = false) (hi : i ≠ k) : j ≠ k := ne_of_resolvePrefix hj hk hi
  have hhalt : i = .halt → t.running = false := by
    rintro rfl
    exact exec_halt_running hx
  obtain ⟨u, v, hu, rfl, -⟩ := exec_cases hj hx
  obtain ⟨htrapped, hresolved, hbp, hconfig⟩ := hu.keepsDebug
  exact ⟨fun hi => hu.running (hne rfl hi), hhalt,
    fun hi hidle => ((hu.heldOver (hne rfl hi)).keepsHolds hidle).1,
    fun hd he hr => hu.imeNext (hne rfl hd) (hne rfl he) (hne rfl hr),
    fun hd hr => hu.ime (hne rfl hd) (hne rfl hr),
    hconfig, hbp, htrapped, hresolved, hblocked⟩

end Sys2Proof.Machine

/-! # Proofs: the flag table of rule R24 -/

namespace Sys2Proof.Machine

/-- A row of the flag table: its columns Z, N, H, C. -/
abbrev FlagRow := FlagRule × FlagRule × FlagRule × FlagRule

/-- F before and after obeys the row, and its low nibble is zero after. -/
def FlagRow.obeyed (row : FlagRow) (f f' : Byte) : Prop :=
  row.1.obeyed (flagZ f) (flagZ f') ∧ row.2.1.obeyed (flagN f) (flagN f') ∧ row.2.2.1.obeyed (flagH f) (flagH f') ∧
    row.2.2.2.obeyed (flagC f) (flagC f') ∧ f' &&& 0x0F = 0

@[simp] theorem forced_obeyed (b x y : Bool) : (FlagRule.forced b).obeyed x y ↔ y = b := Iff.rfl
@[simp] theorem written_obeyed (x y : Bool) : FlagRule.written.obeyed x y := trivial
@[simp] theorem kept_obeyed (x y : Bool) : FlagRule.kept.obeyed x y ↔ y = x := Iff.rfl

/-- Four packed flags obey a row when each obeys its column. -/
theorem FlagRow.obeyed_pack_iff (row : FlagRow) (f : Byte) (z n h c : Bool) : row.obeyed f (packFlags z n h c) ↔
    row.1.obeyed (flagZ f) z ∧ row.2.1.obeyed (flagN f) n ∧ row.2.2.1.obeyed (flagH f) h ∧
      row.2.2.2.obeyed (flagC f) c := by
  simp [FlagRow.obeyed]

/-- The row of POP AF asks for the masked low nibble only. -/
theorem FlagRow.obeyed_mask (f v : Byte) : FlagRow.obeyed (.written, .written, .written, .written) f (v &&& 0xF0) := by
  simp [FlagRow.obeyed]

/-- An instruction that the table lists writes F once, with four packed flags (POP AF: with a masked byte) that obey its row. -/
theorem exec_flags {i : Instr} {s t : State} {row : FlagRow} (hrow : flagTable s.config i = some row)
    (hx : exec i s = .next t) : row.obeyed s.f t.f := by
  cases i with
  | addAR r | addAHl | addAD8 n | adcAR r | adcAHl | adcAD8 n | subR r | subHl | subD8 n | sbcAR r | sbcAHl | sbcAD8 n
  | andR r | andHl | andD8 n | xorR r | xorHl | xorD8 n | orR r | orHl | orD8 n =>
    cases hrow
    cases hx
    simp [FlagRow.obeyed_pack_iff, State.accumulate]
  | cpR r | cpHl | cpD8 n =>
    cases hrow
    cases hx
    simp [FlagRow.obeyed_pack_iff, State.compare]
  | incR r | incHl | decR r | decHl | cpl | scf | ccf | bitBR n r | bitBHl n =>
    cases hrow
    cases hx
    simp [FlagRow.obeyed_pack_iff]
  | daa =>
    cases hrow
    cases hx
    simp [FlagRow.obeyed_pack_iff, daa8_flags]
  | rlca | rrca | rla | rra =>
    cases hrow
    cases hx
    simp [FlagRow.obeyed_pack_iff, State.rotateAcc]
  | rlcR r | rrcR r | rlR r | rrR r | slaR r | sraR r | swapR r | srlR r =>
    cases hrow
    cases hx
    simp [FlagRow.obeyed_pack_iff, State.shiftReg]
  | rlcHl | rrcHl | rlHl | rrHl | slaHl | sraHl | swapHl | srlHl =>
    cases hrow
    cases hx
    simp [FlagRow.obeyed_pack_iff, State.shiftHl]
  | addHlRr p | addSpE8 e | ldHlSpE8 e =>
    cases hrow
    cases hx
    simp [FlagRow.obeyed_pack_iff, setHl_eq]
  | popAf =>
    cases hrow
    cases hx
    exact FlagRow.obeyed_mask _ _
  | popRr p =>
    cases p with
    | af =>
      cases hrow
      cases hx
      exact FlagRow.obeyed_mask _ _
    | bc | de | hl => nomatch hrow
  | _ => nomatch hrow

/-- Settles O23: an unlisted instruction performs no write of F, a listed one writes what its row allows. -/
theorem flagTableObeyed : Obligations.FlagTableObeyed := by
  intro i j s t hj hx
  obtain ⟨u, v, hu, ht, -⟩ := exec_cases hj hx
  cases hrow : flagTable s.config j with
  | none =>
    subst ht
    exact hu.f hrow
  | some row => exact exec_flags hrow (exec_of_resolvePrefix s hj ▸ hx)

end Sys2Proof.Machine

/-! # Proofs: the clock (rule R27) -/

namespace Sys2Proof.Machine

/-- Every shared operation goes on from where its state stands: the clock, the configuration and the queue. -/
theorem closed_later (s : State) : Closed (Later s) where
  read _ _ h := h
  write _ _ _ h := h
  tick _ n h := later_tick n h
  setReg _ _ _ h := by simpa using h
  setF _ _ h := h
  setPc _ _ h := h
  setSp _ _ h := h
  setIme _ _ h := h
  setImeNext _ _ h := h
  setRunning _ _ h := h
  setStopped _ _ h := h

/-- What every shared operation keeps, the interrupt controller keeps (R345 to R348). -/
theorem Closed.controller {P : State → Prop} (hP : Closed P) {s : State} (h : P s) : P s.controller.2 := by
  have hreads : P s.pollReads := hP.read _ _ (hP.read _ _ h)
  unfold State.controller State.poll
  split
  · split
    · exact hreads
    · have hwake := hP.setRunning _ true hreads
      dsimp only
      split
      · exact hP.takeInterrupt _ _ hwake
      · exact hwake
  · exact h

theorem controller_later (s : State) : Later s s.controller.2 := (closed_later s).controller (later_self s)

theorem step_later {s t : State} (h : step s = .next t) : Later s t :=
  (closed_later s).step (fun _ _ h => h) (fun _ _ h => h) h (later_self s)

@[simp] theorem push16_clock (s : State) (v : Word) : (s.push16 v).clock = s.clock + 8 := by simp [push16_eq]

@[simp] theorem takeInterrupt_clock (s : State) (i : Nat) (x : Byte) :
    (s.takeInterrupt i x).clock = s.clock + dispatchLead s.config + 12 := by
  simp [State.takeInterrupt]

/-- The controller takes no clock unless it dispatches (R345, R348). -/
theorem controller_clock (s : State) :
    s.controller.2.clock = s.clock + if s.controller.1 then dispatchLead s.config + 12 else 0 := by
  unfold State.controller State.poll
  split
  · split
    · rfl
    · dsimp only
      split
      · simp [pollReads_eq, Nat.add_assoc]
      · rfl
  · rfl

/-- A breakpoint stands at PC and the debug layer exists (R351). -/
def State.atBreakpoint (s : State) : Bool := s.config.debugPresent && s.execBp.contains s.pc

theorem breakpoint_of_unmarked {s : State} (h : s.atBreakpoint = false) : s.breakpoint = (false, s) :=
  if_neg (Bool.not_eq_true _ ▸ h)

theorem breakpoint_of_resolved {s : State} (h : s.atBreakpoint = true) (hr : s.trapResolved = true) :
    s.breakpoint = (false, { s with trapResolved := false }) := (if_pos h).trans (if_pos hr)

theorem breakpoint_of_unresolved {s : State} (h : s.atBreakpoint = true) (hr : s.trapResolved = false) :
    s.breakpoint = (true, { s with trapped := true }) := (if_pos h).trans (if_neg (Bool.not_eq_true _ ▸ hr))

/-- What the debug flags do not touch, the breakpoint check does not change (R351). -/
theorem breakpoint_keeps {α : Type} (g : State → α) (hres : ∀ s b, g { s with trapResolved := b } = g s)
    (htrap : ∀ s b, g { s with trapped := b } = g s) (s : State) : g s.breakpoint.2 = g s := by
  cases hb : s.atBreakpoint with
  | false => rw [breakpoint_of_unmarked hb]
  | true =>
    cases hr : s.trapResolved with
    | true => rw [breakpoint_of_resolved hb hr, hres]
    | false => rw [breakpoint_of_unresolved hb hr, htrap]

@[simp] theorem breakpoint_clock (s : State) : s.breakpoint.2.clock = s.clock :=
  breakpoint_keeps State.clock (fun _ _ => rfl) (fun _ _ => rfl) s
@[simp] theorem breakpoint_config (s : State) : s.breakpoint.2.config = s.config :=
  breakpoint_keeps State.config (fun _ _ => rfl) (fun _ _ => rfl) s
@[simp] theorem breakpoint_env (s : State) : s.breakpoint.2.env = s.env :=
  breakpoint_keeps State.env (fun _ _ => rfl) (fun _ _ => rfl) s

theorem exec_clock_phase {i : Instr} {s t : State} (hx : exec i s = .next t) (hd : s.config.undefTicks % 4 = 0) :
    t.clock % 4 = s.clock % 4 := by
  obtain ⟨j, hj⟩ := resolvePrefix_some i
  obtain ⟨u, v, hu, rfl, -⟩ := exec_cases hj hx
  exact hu.clock_phase hd

/-- A step keeps the phase of the clock: an idle step takes `IDLE_TICK`, a dispatch `INT_DISPATCH_TICKS` (at least 12, log entry 10),
a breakpoint nothing, an instruction its ticks. -/
theorem step_clock_phase {s t : State} (h : step s = .next t) (hidle : s.config.idleTick % 4 = 0)
    (hundef : s.config.undefTicks % 4 = 0) (hint : s.config.intDispatchTicks % 4 = 0) : t.clock % 4 = s.clock % 4 := by
  have hclock := controller_clock s
  obtain ⟨-, hconfig, -⟩ := controller_later s
  have hlead : (dispatchLead s.config + 12) % 4 = 0 := by
    simp only [dispatchLead, tPerM]
    omega
  rcases step_cases h with ⟨_, rfl⟩ | ⟨_, _, hd, rfl⟩ | ⟨_, _, hd, ⟨_, rfl⟩ | ⟨_, _, rfl⟩ | ⟨_, _, i, _, hx⟩⟩
  · rw [tick_clock]
    omega
  · rw [hclock, if_pos hd]
    omega
  · rw [tick_clock, hclock, hconfig, hd]
    simp only [Bool.false_eq_true, if_false]
    omega
  · simp [hclock, hd]
  · have hphase := exec_clock_phase hx (by simpa [hconfig] using hundef)
    simpa [hclock, hd] using hphase

/-- Settles O21: every operation goes on from its state, and every tick of a step is a multiple of 4 when the parameters are. -/
theorem clockOnlyAdvances : Obligations.ClockOnlyAdvances :=
  fun _ _ h => ⟨(step_later h).1, step_clock_phase h⟩

end Sys2Proof.Machine

/-! # Proofs: with nothing scheduled, a step does not depend on the clock or the record (rules R11, R27) -/

namespace Sys2Proof.Machine

/-- The same state at a clock value `d` later and with the events `past` before its own. -/
def State.shift (s : State) (d : Nat) (past : List BusEvent) : State :=
  { s with clock := s.clock + d, history := s.history ++ past }

/-- A tick of which the environment takes no note. -/
def State.pass (s : State) (n : Nat) : State := { s with clock := s.clock + n, history := .tick n :: s.history }

/-- With nothing in the environment's queue a tick is the clock and its event. -/
theorem tick_of_no_env {s : State} (h : s.env = []) (n : Nat) : s.tick n = s.pass n :=
  tick_idle s n (by simp [State.EnvIdle, h])

/-! ## The shift and every operation on a state -/

section
variable (s : State) (d : Nat) (past : List BusEvent)
@[simp] theorem shift_a : (s.shift d past).a = s.a := rfl
@[simp] theorem shift_f : (s.shift d past).f = s.f := rfl
@[simp] theorem shift_c : (s.shift d past).c = s.c := rfl
@[simp] theorem shift_pc : (s.shift d past).pc = s.pc := rfl
@[simp] theorem shift_sp : (s.shift d past).sp = s.sp := rfl
@[simp] theorem shift_running : (s.shift d past).running = s.running := rfl
@[simp] theorem shift_stopped : (s.shift d past).stopped = s.stopped := rfl
@[simp] theorem shift_ime : (s.shift d past).ime = s.ime := rfl
@[simp] theorem shift_imeNext : (s.shift d past).imeNext = s.imeNext := rfl
@[simp] theorem shift_blocked : (s.shift d past).blocked = s.blocked := rfl
@[simp] theorem shift_execBp : (s.shift d past).execBp = s.execBp := rfl
@[simp] theorem shift_trapResolved : (s.shift d past).trapResolved = s.trapResolved := rfl
@[simp] theorem shift_config : (s.shift d past).config = s.config := rfl
@[simp] theorem shift_env : (s.shift d past).env = s.env := rfl
@[simp] theorem shift_reg (r : Reg8) : (s.shift d past).reg r = s.reg r := by cases r <;> rfl
@[simp] theorem shift_bc : (s.shift d past).bc = s.bc := rfl
@[simp] theorem shift_de : (s.shift d past).de = s.de := rfl
@[simp] theorem shift_hl : (s.shift d past).hl = s.hl := rfl
@[simp] theorem shift_pair16 (p : Pair16) : (s.shift d past).pair16 p = s.pair16 p := by cases p <;> rfl
@[simp] theorem shift_pairStk (p : PairStk) : (s.shift d past).pairStk p = s.pairStk p := by cases p <;> rfl
@[simp] theorem shift_peek (x : Word) : (s.shift d past).peek x = s.peek x := rfl
@[simp] theorem shift_highAddr (n : Byte) : (s.shift d past).highAddr n = s.highAddr n := rfl
@[simp] theorem shift_relTarget (e : Byte) : (s.shift d past).relTarget e = s.relTarget e := rfl
@[simp] theorem shift_record (ev : BusEvent) : (s.shift d past).record ev = (s.record ev).shift d past := rfl
@[simp] theorem shift_busWrite (a : Word) (v : Byte) : (s.shift d past).busWrite a v = (s.busWrite a v).shift d past := rfl
@[simp] theorem shift_setPc (v : Word) : (s.shift d past).setPc v = (s.setPc v).shift d past := rfl
@[simp] theorem shift_setSp (v : Word) : (s.shift d past).setSp v = (s.setSp v).shift d past := rfl
@[simp] theorem shift_setF (v : Byte) : (s.shift d past).setF v = (s.setF v).shift d past := rfl
@[simp] theorem shift_setIme (v : Bool) : (s.shift d past).setIme v = (s.setIme v).shift d past := rfl
@[simp] theorem shift_setImeNext (v : Bool) : (s.shift d past).setImeNext v = (s.setImeNext v).shift d past := rfl
@[simp] theorem shift_setRunning (v : Bool) : (s.shift d past).setRunning v = (s.setRunning v).shift d past := rfl
@[simp] theorem shift_setStopped (v : Bool) : (s.shift d past).setStopped v = (s.setStopped v).shift d past := rfl
@[simp] theorem shift_setReg (r : Reg8) (v : Byte) : (s.shift d past).setReg r v = (s.setReg r v).shift d past := by
  cases r <;> rfl
@[simp] theorem shift_setPair16 (p : Pair16) (v : Word) : (s.shift d past).setPair16 p v = (s.setPair16 p v).shift d past := by
  cases p <;> rfl
@[simp] theorem shift_setPairStk (p : PairStk) (v : Word) :
    (s.shift d past).setPairStk p v = (s.setPairStk p v).shift d past := by
  cases p <;> rfl
@[simp] theorem shift_accumulate (op : AccOp) (v : Byte) (n : Nat) :
    (s.shift d past).accumulate op v n = (s.accumulate op v n).shift d past := rfl
@[simp] theorem shift_compare (op : AccOp) (v : Byte) (n : Nat) :
    (s.shift d past).compare op v n = (s.compare op v n).shift d past := rfl
@[simp] theorem shift_rotateAcc (op : Byte → Bool → Byte × Bool) :
    (s.shift d past).rotateAcc op = (s.rotateAcc op).shift d past := rfl
@[simp] theorem shift_shiftReg (op : Byte → Bool → Byte × Bool) (r : Reg8) :
    (s.shift d past).shiftReg op r = (s.shiftReg op r).shift d past := by cases r <;> rfl
@[simp] theorem shift_setHl (v : Word) : (s.shift d past).setHl v = (s.setHl v).shift d past := rfl
@[simp] theorem shift_setAf (v : Word) : (s.shift d past).setAf v = (s.setAf v).shift d past := rfl
@[simp] theorem setHl_env (v : Word) : (s.setHl v).env = s.env := rfl
@[simp] theorem shift_pass (n : Nat) : (s.shift d past).pass n = (s.pass n).shift d past := by
  simp [State.shift, State.pass, Nat.add_right_comm]
@[simp] theorem setPair16_env (p : Pair16) (v : Word) : (s.setPair16 p v).env = s.env := by cases p <;> rfl
@[simp] theorem pass_f (n : Nat) : (s.pass n).f = s.f := rfl
@[simp] theorem pass_env (n : Nat) : (s.pass n).env = s.env := rfl
end

section
variable {s : State} (h : s.env = []) (d : Nat) (past : List BusEvent)
include h

theorem shift_tick (n : Nat) : (s.shift d past).tick n = (s.tick n).shift d past := by
  simp [tick_of_no_env, h]

theorem shift_takeInterrupt (i : Nat) (x : Byte) :
    (s.shift d past).takeInterrupt i x = (s.takeInterrupt i x).shift d past := by
  simp [State.takeInterrupt, push16_eq, tick_of_no_env, h]
end

/-! ## The shift and every instruction -/

/-- The outcome of a step with its next state shifted. -/
def shiftOutcome (d : Nat) (past : List BusEvent) : Host.Outcome State Fault Refusal → Host.Outcome State Fault Refusal
  | .next t => .next (t.shift d past)
  | .fault r => .fault r
  | .refused r => .refused r

@[simp] theorem shiftOutcome_next (d : Nat) (past : List BusEvent) (t : State) :
    shiftOutcome d past (.next t) = .next (t.shift d past) := rfl

/-- With ticks that only pass, an instruction is a composition of operations that the shift commutes with. The flag equations of
INC, DEC and the shifts on (HL) are left out: they would restate F before the states it is computed from agree. -/
theorem exec_shift_of_ne_prefix {s : State} (i : Instr) (hi : ∀ op2, i ≠ .prefixCb op2) (d : Nat) (past : List BusEvent)
    (h : s.env = []) : exec i (s.shift d past) = shiftOutcome d past (exec i s) := by
  cases i with
  | prefixCb op2 => exact absurd rfl (hi op2)
  | jpCcA16 cc a =>
    by_cases hc : condHolds cc s.f = true <;> simp [exec, execJpCcA16, hc, tick_of_no_env, h]
  | jrCcE8 cc e =>
    by_cases hc : condHolds cc s.f = true <;> simp [exec, execJrCcE8, hc, tick_of_no_env, h]
  | callCcA16 cc a =>
    by_cases hc : condHolds cc s.f = true <;> simp [exec, execCallCcA16, hc, tick_of_no_env, h, push16_eq]
  | retCc cc =>
    by_cases hc : condHolds cc s.f = true <;>
      simp [exec, execRetCc, hc, tick_of_no_env, h, pop16_fst, pop16_snd, popMiddle_eq]
  | pushRr p | rst t | callA16 a =>
    refine congrArg Host.Outcome.next ?_
    simp [tick_of_no_env, h, push16_eq]
  | popRr p | popAf | ret | reti =>
    refine congrArg Host.Outcome.next ?_
    simp [tick_of_no_env, h, pop16_fst, pop16_snd, popMiddle_eq, State.returnFromInterrupt]
  | rlcHl | rrcHl | rlHl | rrHl | slaHl | sraHl | swapHl | srlHl | incHl | decHl =>
    refine congrArg Host.Outcome.next ?_
    simp [tick_of_no_env, h, State.shiftHl, -shiftFlags_eq, -inc8_flags, -dec8_flags]
  | undefD3 | undefDB | undefDD | undefE3 | undefE4 | undefEB | undefEC | undefED | undefF4 | undefFC | undefFD =>
    refine congrArg Host.Outcome.next ?_
    simp [tick_of_no_env, h, State.skipUndefined]
  | _ =>
    refine congrArg Host.Outcome.next ?_
    simp [tick_of_no_env, h]

theorem exec_shift {s : State} (i : Instr) (d : Nat) (past : List BusEvent) (h : s.env = []) :
    exec i (s.shift d past) = shiftOutcome d past (exec i s) := by
  by_cases hi : ∃ op2, i = .prefixCb op2
  · obtain ⟨op2, rfl⟩ := hi
    obtain ⟨j, hj, hs⟩ := secondaryEntry_isSecondary op2
    rw [exec_prefixCb op2 _ j hj, exec_prefixCb op2 s j hj]
    exact exec_shift_of_ne_prefix j (isSecondary_ne_prefix hs) d past h
  · exact exec_shift_of_ne_prefix i (fun op2 e => hi ⟨op2, e⟩) d past h

theorem Later.env_nil {s t : State} (h : Later s t) (hs : s.env = []) : t.env = [] := List.suffix_nil.mp (hs ▸ h.2.2)

/-! ## The shift and the parts of the step (rule R343) -/

section
variable {s : State} (d : Nat) (past : List BusEvent)

@[simp] theorem shift_pollReads (s : State) : (s.shift d past).pollReads = s.pollReads.shift d past := rfl

theorem shift_controller (h : s.env = []) :
    (s.shift d past).controller = (s.controller.1, s.controller.2.shift d past) := by
  have hmask : (s.shift d past).pendingMask = s.pendingMask := rfl
  have hreads : (s.pollReads.setRunning true).env = [] := h
  unfold State.controller State.poll
  simp only [shift_ime, shift_running, hmask, shift_pollReads, shift_setRunning, shift_takeInterrupt hreads, shift_config,
    shift_peek]
  split
  · split
    · rfl
    · split <;> rfl
  · rfl

@[simp] theorem shift_breakpoint (s : State) :
    (s.shift d past).breakpoint = (s.breakpoint.1, s.breakpoint.2.shift d past) := by
  cases hb : s.atBreakpoint with
  | false => rw [breakpoint_of_unmarked hb, breakpoint_of_unmarked (s := s.shift d past) hb]
  | true =>
    cases hr : s.trapResolved with
    | true =>
      rw [breakpoint_of_resolved hb hr, breakpoint_of_resolved (s := s.shift d past) hb hr]
      rfl
    | false =>
      rw [breakpoint_of_unresolved hb hr, breakpoint_of_unresolved (s := s.shift d past) hb hr]
      rfl

theorem shift_fetchedEntry (h : s.env = []) : (s.shift d past).fetchedEntry = s.fetchedEntry := by
  simp [State.fetchedEntry, State.fetchedBytes, State.imm8Cycle, tick_of_no_env, h]

theorem shift_instruction (h : s.env = []) : (s.shift d past).instruction = shiftOutcome d past s.instruction := by
  unfold State.instruction
  rw [shift_fetchedEntry d past h]
  split
  · next i _ => exact exec_shift (s := s.opcodeRead) i d past h
  · rfl

theorem shift_afterController (h : s.env = []) :
    (s.shift d past).afterController = shiftOutcome d past s.afterController := by
  unfold State.afterController
  rw [shift_running, show (s.shift d past).commit = s.commit.shift d past from rfl, shift_breakpoint]
  split
  · exact congrArg Host.Outcome.next (shift_tick h d past _)
  · dsimp only
    split
    · rfl
    · exact shift_instruction d past ((breakpoint_env _).trans h)

theorem step_shift (h : s.env = []) : step (s.shift d past) = shiftOutcome d past (step s) := by
  unfold step stepOnce
  simp only [shift_blocked, shift_stopped, shift_controller d past h, idle_eq, shift_config, shift_tick h]
  split
  · rfl
  · split
    · rfl
    · exact shift_afterController d past ((controller_later s).env_nil h)
end

/-- Settles O27: the shift commutes with every part of the step. -/
theorem shiftedClockGivesShiftedStep : Obligations.ShiftedClockGivesShiftedStep := by
  intro s t d past h hstep
  refine ⟨(step_later hstep).env_nil h, ?_⟩
  calc step (s.shift d past) = shiftOutcome d past (step s) := step_shift d past h
    _ = .next (t.shift d past) := by rw [hstep]; rfl

end Sys2Proof.Machine

/-! # Proofs: every bus access has its tick (rules R66, R67) -/

namespace Sys2Proof.Machine

theorem paced_append {xs ys : List BusEvent} (hx : paced xs = true) (hy : paced ys = true) : paced (xs ++ ys) = true := by
  fun_induction paced xs with
  | case1 => exact hy
  | case2 n rest ih => exact ih hx
  | case3 a v n rest ih | case4 a v n rest ih =>
    obtain ⟨hn, hrest⟩ := Bool.and_eq_true_iff.mp hx
    exact Bool.and_eq_true_iff.mpr ⟨hn, ih hrest⟩
  | case5 => contradiction

theorem totalTicks_append (xs ys : List BusEvent) : totalTicks (xs ++ ys) = totalTicks xs + totalTicks ys := by
  fun_induction totalTicks xs with
  | case1 => simp
  | case2 n rest ih => simp [totalTicks, ih, Nat.add_assoc]
  | case3 x rest hx ih => cases x <;> simp_all [totalTicks]

theorem BusLog.trans {s t u : State} {xs ys : List BusEvent} (h : BusLog s t xs) (k : BusLog t u ys) :
    BusLog s u (xs ++ ys) := by
  simp_all [BusLog]

/-- From `s` to `t` every bus access has its own machine cycle, and the clock advances by the ticks alone (R66, R67). -/
def PacedRun (s t : State) : Prop :=
  ∃ evs, BusLog s t evs ∧ paced evs = true ∧ t.clock = s.clock + totalTicks evs

namespace PacedRun
variable {s t u : State}

theorem refl (s : State) : PacedRun s s := ⟨[], rfl, rfl, rfl⟩

theorem trans (h : PacedRun s t) (k : PacedRun t u) : PacedRun s u := by
  obtain ⟨xs, hx, hpx, hcx⟩ := h
  obtain ⟨ys, hy, hpy, hcy⟩ := k
  exact ⟨xs ++ ys, hx.trans hy, paced_append hpx hpy, by rw [hcy, hcx, totalTicks_append, Nat.add_assoc]⟩

theorem tick (n : Nat) (h : PacedRun s t) : PacedRun s (t.tick n) :=
  h.trans ⟨[.tick n], tick_history t n, rfl, tick_clock t n⟩

theorem read (a : Word) (h : PacedRun s t) : PacedRun s ((t.record (.read a (t.peek a))).tick 4) :=
  h.trans ⟨[.read a (t.peek a), .tick 4], tick_history _ 4, rfl, tick_clock _ 4⟩

theorem write (a : Word) (v : Byte) (h : PacedRun s t) : PacedRun s ((t.busWrite a v).tick 4) :=
  h.trans ⟨[.write a v, .tick 4], tick_history _ 4, rfl, tick_clock _ 4⟩

/-- An operation that emits no event and leaves the clock alone. -/
theorem quiet (h : PacedRun s t) (hh : u.history = t.history) (hc : u.clock = t.clock) : PacedRun s u :=
  h.trans ⟨[], hh, rfl, hc⟩

theorem setReg (r : Reg8) (v : Byte) (h : PacedRun s t) : PacedRun s (t.setReg r v) :=
  h.quiet (setReg_history t r v) (setReg_clock t r v)

theorem setF (v : Byte) (h : PacedRun s t) : PacedRun s (t.setF v) := h.quiet rfl rfl
theorem setPc (v : Word) (h : PacedRun s t) : PacedRun s (t.setPc v) := h.quiet rfl rfl
theorem setSp (v : Word) (h : PacedRun s t) : PacedRun s (t.setSp v) := h.quiet rfl rfl
theorem setIme (v : Bool) (h : PacedRun s t) : PacedRun s (t.setIme v) := h.quiet rfl rfl
theorem setImeNext (v : Bool) (h : PacedRun s t) : PacedRun s (t.setImeNext v) := h.quiet rfl rfl
theorem setRunning (v : Bool) (h : PacedRun s t) : PacedRun s (t.setRunning v) := h.quiet rfl rfl
theorem setStopped (v : Bool) (h : PacedRun s t) : PacedRun s (t.setStopped v) := h.quiet rfl rfl
theorem setHl (v : Word) (h : PacedRun s t) : PacedRun s (t.setHl v) := h.quiet rfl rfl

theorem setPair16 (p : Pair16) (v : Word) (h : PacedRun s t) : PacedRun s (t.setPair16 p v) := by
  cases p <;> exact h.quiet rfl rfl

theorem setPairStk (p : PairStk) (v : Word) (h : PacedRun s t) : PacedRun s (t.setPairStk p v) := by
  cases p <;> exact h.quiet rfl rfl

theorem push16 (v : Word) (h : PacedRun s t) : PacedRun s (t.push16 v) := by
  rw [push16_eq]
  exact (((h.setSp _).write _ _).setSp _).write _ _

theorem pop16 (h : PacedRun s t) : PacedRun s t.pop16.2 := by
  rw [pop16_snd, popMiddle_eq]
  exact (((h.read _).setSp _).read _).setSp _

end PacedRun

/-- Every table entry but PREFIX CB opens with a tick and goes on in paced accesses; the cases are the shapes the rules share. -/
theorem exec_paced_of_ne_prefix (i : Instr) (s : State) (hi : ∀ op2, i ≠ .prefixCb op2) :
    ∃ n t, exec i s = .next t ∧ PacedRun (s.tick n) t := by
  have h1 : PacedRun (s.tick 4) s.begin1 := .refl _
  have h2 : PacedRun (s.tick 4) s.begin2 := h1.read _
  have h3 : PacedRun (s.tick 4) s.begin3 := h2.read _
  cases i with
  | prefixCb op2 => exact absurd rfl (hi op2)
  | undefD3 | undefDB | undefDD | undefE3 | undefE4 | undefEB | undefEC | undefED | undefF4 | undefFC | undefFD =>
    exact ⟨s.config.undefTicks, _, rfl, (PacedRun.refl _).setPc _⟩
  | jpCcA16 cc a =>
    by_cases hc : condHolds cc s.begin3.f = true
    · exact ⟨4, _, if_pos hc, (h3.tick 4).setPc _⟩
    · exact ⟨4, _, if_neg hc, h3.setPc _⟩
  | jrCcE8 cc e =>
    by_cases hc : condHolds cc s.begin2.f = true
    · exact ⟨4, _, if_pos hc, (h2.tick 4).setPc _⟩
    · exact ⟨4, _, if_neg hc, h2.setPc _⟩
  | callCcA16 cc a =>
    by_cases hc : condHolds cc s.begin3.f = true
    · exact ⟨4, _, if_pos hc, ((h3.tick 4).push16 _).setPc _⟩
    · exact ⟨4, _, if_neg hc, h3.setPc _⟩
  | retCc cc =>
    by_cases hc : condHolds cc s.begin1.cycle.f = true
    · exact ⟨4, _, if_pos hc, ((h1.tick 4).pop16.tick 4).setPc _⟩
    · exact ⟨4, _, if_neg hc, (h1.tick 4).setPc _⟩
  | nop | jpHl => exact ⟨4, _, rfl, h1.setPc _⟩
  | di => exact ⟨4, _, rfl, ((h1.setImeNext _).setIme _).setPc _⟩
  | ei => exact ⟨4, _, rfl, (h1.setImeNext _).setPc _⟩
  | halt => exact ⟨4, _, rfl, (h1.setRunning _).setPc _⟩
  | stop => exact ⟨4, _, rfl, (h1.setStopped _).setPc _⟩
  | ldRR dst src => exact ⟨4, _, rfl, (h1.setReg _ _).setPc _⟩
  | cpR r | scf | ccf => exact ⟨4, _, rfl, (h1.setF _).setPc _⟩
  | addAR r | adcAR r | subR r | sbcAR r | andR r | xorR r | orR r | incR r | decR r | daa | cpl | rlca | rrca | rla | rra =>
    exact ⟨4, _, rfl, ((h1.setReg _ _).setF _).setPc _⟩
  | ldSpHl => exact ⟨4, _, rfl, ((h1.setSp _).tick 4).setPc _⟩
  | addHlRr p => exact ⟨4, _, rfl, (((h1.setHl _).setF _).tick 4).setPc _⟩
  | incRr p | decRr p => exact ⟨4, _, rfl, ((h1.setPair16 p _).tick 4).setPc _⟩
  | ldRHl dst | ldABc | ldADe | ldAC => exact ⟨4, _, rfl, ((h1.read _).setReg _ _).setPc _⟩
  | ldAHli | ldAHld => exact ⟨4, _, rfl, (((h1.read _).setReg _ _).setHl _).setPc _⟩
  | addAHl | adcAHl | subHl | sbcAHl | andHl | xorHl | orHl =>
    exact ⟨4, _, rfl, (((h1.read _).setReg _ _).setF _).setPc _⟩
  | cpHl => exact ⟨4, _, rfl, ((h1.read _).setF _).setPc _⟩
  | ldHlR r | ldBcA | ldDeA | ldCA => exact ⟨4, _, rfl, (h1.write _ _).setPc _⟩
  | ldHliA | ldHldA => exact ⟨4, _, rfl, ((h1.write _ _).setHl _).setPc _⟩
  | incHl | decHl => exact ⟨4, _, rfl, (((h1.read _).setF _).write _ _).setPc _⟩
  | popRr p => exact ⟨4, _, rfl, (h1.pop16.setPairStk p _).setPc _⟩
  | popAf => exact ⟨4, _, rfl, (h1.pop16.setPairStk .af _).setPc _⟩
  | pushRr p | rst n => exact ⟨4, _, rfl, ((h1.tick 4).push16 _).setPc _⟩
  | ret => exact ⟨4, _, rfl, (h1.pop16.tick 4).setPc _⟩
  | reti => exact ⟨4, _, rfl, (((h1.pop16.tick 4).setPc _).setImeNext _).setIme _⟩
  | ldRD8 r n | resBR n r | setBR n r => exact ⟨4, _, rfl, (h2.setReg _ _).setPc _⟩
  | cpD8 n | bitBR n r => exact ⟨4, _, rfl, (h2.setF _).setPc _⟩
  | addAD8 n | adcAD8 n | subD8 n | sbcAD8 n | andD8 n | xorD8 n | orD8 n
  | rlcR r | rrcR r | rlR r | rrR r | slaR r | sraR r | swapR r | srlR r =>
    exact ⟨4, _, rfl, ((h2.setReg _ _).setF _).setPc _⟩
  | jrE8 e => exact ⟨4, _, rfl, (h2.tick 4).setPc _⟩
  | ldHlSpE8 e => exact ⟨4, _, rfl, (((h2.setF _).setHl _).tick 4).setPc _⟩
  | addSpE8 e => exact ⟨4, _, rfl, ((((h2.setF _).tick 4).tick 4).setSp _).setPc _⟩
  | ldhAA8 n => exact ⟨4, _, rfl, ((h2.read _).setReg _ _).setPc _⟩
  | bitBHl n => exact ⟨4, _, rfl, ((h2.read _).setF _).setPc _⟩
  | ldHlD8 n | ldhA8A n => exact ⟨4, _, rfl, (h2.write _ _).setPc _⟩
  | rlcHl | rrcHl | rlHl | rrHl | slaHl | sraHl | swapHl | srlHl =>
    exact ⟨4, _, rfl, (((h2.read _).setF _).write _ _).setPc _⟩
  | resBHl n | setBHl n => exact ⟨4, _, rfl, ((h2.read _).write _ _).setPc _⟩
  | ldRrD16 p v => exact ⟨4, _, rfl, (h3.setPair16 p v).setPc _⟩
  | jpA16 a => exact ⟨4, _, rfl, (h3.tick 4).setPc _⟩
  | ldAA16 a => exact ⟨4, _, rfl, ((h3.read _).setReg _ _).setPc _⟩
  | ldA16A a => exact ⟨4, _, rfl, (h3.write _ _).setPc _⟩
  | ldA16Sp a => exact ⟨4, _, rfl, ((h3.write _ _).write _ _).setPc _⟩
  | callA16 a => exact ⟨4, _, rfl, ((h3.tick 4).push16 _).setPc _⟩

theorem exec_paced {i : Instr} {s t : State} (hx : exec i s = .next t) : ∃ n, PacedRun (s.tick n) t := by
  obtain ⟨j, hj⟩ := resolvePrefix_some i
  obtain ⟨n, u, hu, hrun⟩ := exec_paced_of_ne_prefix j s (resolvePrefix_spec hj).1
  rw [exec_of_resolvePrefix s hj] at hx
  obtain rfl := Host.Outcome.next.inj (hx.symm.trans hu)
  exact ⟨n, hrun⟩

/-- Settles O26: the opening tick, then the paced run of the instruction's accesses. -/
theorem everyAccessHasItsTick : Obligations.EveryAccessHasItsTick := by
  intro i s t hx
  obtain ⟨n, evs, hlog, hpaced, hclock⟩ := exec_paced hx
  have htick : BusLog s (s.tick n) [.tick n] := tick_history s n
  exact ⟨n, evs, htick.trans hlog, hpaced, by rw [hclock, tick_clock]⟩

end Sys2Proof.Machine

/-! # Proofs: the decoder and the encoder are inverse -/

namespace Sys2Proof.Machine

/-- After 0xCB the decoder answers with the secondary table's entry (R100). -/
theorem decode_prefixed {op2 : Byte} {rest : List Byte} {i : Instr} (h : secondaryEntry op2 = some i) :
    decode (prefixByte :: op2 :: rest) = .ok (i, rest) :=
  decode_two Laws.Length.lengthOf_prefix.symm h

/-- An opcode whose table entry puts the word of its two operand bytes, low byte first, into the instruction. -/
theorem decode_word {op : Byte} {rest : List Byte} {f : Word → Instr} (hl : lengthOf op = 3)
    (hf : ∀ l h, (primaryEntry op l h).bind resolvePrefix = some (f (mkWord h l))) (a : Word) :
    decode (op :: loByte a :: hiByte a :: rest) = .ok (f a, rest) :=
  decode_three hl (by rw [hf, mkWord_hi_lo])

theorem bitVec3_cases (n : BitVec 3) : n = 0 ∨ n = 1 ∨ n = 2 ∨ n = 3 ∨ n = 4 ∨ n = 5 ∨ n = 6 ∨ n = 7 := by
  revert n
  decide

/-- The cases are the instruction forms of the tables (R96, R97); a field is split into its values, which makes the opcode a literal. -/
theorem decode_encode (i : Instr) (rest : List Byte) (hi : i.wellFormed = true) :
    decode (encode i ++ rest) = .ok (i, rest) := by
  cases i with
  | prefixCb op2 => cases hi
  | undefD3 | undefDB | undefDD | undefE3 | undefE4 | undefEB | undefEC | undefED | undefF4 | undefFC | undefFD
  | nop | ldBcA | ldDeA | ldHliA | ldHldA | ldABc | ldADe | ldAHli | ldAHld | incHl | decHl | rlca | rrca | rla | rra
  | daa | cpl | scf | ccf | halt | addAHl | adcAHl | subHl | sbcAHl | andHl | xorHl | orHl | cpHl | popAf | ret | reti
  | ldCA | ldAC | jpHl | ldSpHl | di | ei => exact decode_one rfl rfl
  | incRr p | decRr p | addHlRr p | pushRr p => cases p <;> exact decode_one rfl rfl
  | popRr p =>
    cases p with
    | af => cases hi
    | bc | de | hl => exact decode_one rfl rfl
  | retCc cc => cases cc <;> exact decode_one rfl rfl
  | incR r | decR r | ldRHl r | ldHlR r | addAR r | adcAR r | subR r | sbcAR r | andR r | xorR r | orR r | cpR r =>
    cases r <;> exact decode_one rfl rfl
  | ldRR dst src => cases dst <;> cases src <;> exact decode_one rfl rfl
  | rst n => obtain rfl | rfl | rfl | rfl | rfl | rfl | rfl | rfl := bitVec3_cases n <;> exact decode_one rfl rfl
  | ldHlD8 n | addAD8 n | adcAD8 n | subD8 n | sbcAD8 n | andD8 n | xorD8 n | orD8 n | cpD8 n | ldhA8A n | ldhAA8 n
  | jrE8 n | addSpE8 n | ldHlSpE8 n | stop => exact decode_two rfl rfl
  | ldRD8 r n => cases r <;> exact decode_two rfl rfl
  | jrCcE8 cc e => cases cc <;> exact decode_two rfl rfl
  | ldA16Sp a | jpA16 a | callA16 a | ldA16A a | ldAA16 a => exact decode_word rfl (fun _ _ => rfl) a
  | ldRrD16 p v => cases p <;> exact decode_word rfl (fun _ _ => rfl) v
  | jpCcA16 cc a | callCcA16 cc a => cases cc <;> exact decode_word rfl (fun _ _ => rfl) a
  | rlcHl | rrcHl | rlHl | rrHl | slaHl | sraHl | swapHl | srlHl => exact decode_prefixed rfl
  | rlcR r | rrcR r | rlR r | rrR r | slaR r | sraR r | swapR r | srlR r => cases r <;> exact decode_prefixed rfl
  | bitBHl n | resBHl n | setBHl n => exact decode_prefixed (by revert n; decide +kernel)
  | bitBR n r | resBR n r | setBR n r => exact decode_prefixed (by cases r <;> revert n <;> decide +kernel)

/-- Settles O6, form by form of the two tables. -/
theorem decodeInvertsEncode : Obligations.DecodeInvertsEncode := decode_encode

/-- Settles O11: each word is the encoding of its instruction; 0xED stands before a byte that is not its own. -/
theorem sampleWordsDecode : Obligations.SampleWordsDecode :=
  ⟨decode_encode .nop [] rfl, decode_encode (.ldRR .a .b) [] rfl, decode_encode (.ldRD8 .a 0x42) [] rfl,
    decode_encode (.ldRrD16 .sp 0xFFFE) [] rfl, decode_encode .addAHl [] rfl, decode_encode (.jrCcE8 .nz 0xFC) [] rfl,
    decode_encode (.callCcA16 .c 0x1234) [] rfl, decode_encode (.rst 5) [] rfl, decode_encode .popAf [] rfl,
    decode_encode .halt [] rfl, decode_encode .undefED [0x42] rfl, decode_encode (.bitBR 7 .h) [] rfl,
    decode_encode (.setBR 1 .e) [] rfl, rfl⟩

/-! ## Every opcode with its operand bytes is the encoding of a well-formed instruction -/

/-- The instruction with its immediate operand, if it has one, replaced by the operand bytes `b1`, `b2` (R92). -/
def withOperands (b1 b2 : Byte) : Instr → Instr
  | .ldRrD16 p _ => .ldRrD16 p (mkWord b2 b1)
  | .ldRD8 r _ => .ldRD8 r b1
  | .ldHlD8 _ => .ldHlD8 b1
  | .ldA16Sp _ => .ldA16Sp (mkWord b2 b1)
  | .jrE8 _ => .jrE8 b1
  | .jrCcE8 cc _ => .jrCcE8 cc b1
  | .addAD8 _ => .addAD8 b1
  | .adcAD8 _ => .adcAD8 b1
  | .subD8 _ => .subD8 b1
  | .sbcAD8 _ => .sbcAD8 b1
  | .andD8 _ => .andD8 b1
  | .xorD8 _ => .xorD8 b1
  | .orD8 _ => .orD8 b1
  | .cpD8 _ => .cpD8 b1
  | .jpCcA16 cc _ => .jpCcA16 cc (mkWord b2 b1)
  | .jpA16 _ => .jpA16 (mkWord b2 b1)
  | .callCcA16 cc _ => .callCcA16 cc (mkWord b2 b1)
  | .callA16 _ => .callA16 (mkWord b2 b1)
  | .ldhA8A _ => .ldhA8A b1
  | .ldhAA8 _ => .ldhAA8 b1
  | .addSpE8 _ => .addSpE8 b1
  | .ldHlSpE8 _ => .ldHlSpE8 b1
  | .ldA16A _ => .ldA16A (mkWord b2 b1)
  | .ldAA16 _ => .ldAA16 (mkWord b2 b1)
  | i => i

theorem wellFormed_withOperands (b1 b2 : Byte) (i : Instr) : (withOperands b1 b2 i).wellFormed = i.wellFormed := by
  cases i <;> rfl

theorem withOperands_eq_stop {b1 b2 : Byte} {i : Instr} : withOperands b1 b2 i = .stop ↔ i = .stop := by
  cases i <;> simp [withOperands]

/-- Outside the secondary table and STOP, the bytes after the opcode are the operand bytes. -/
theorem encode_withOperands {i : Instr} {op : Byte} {ops : List Byte} (b1 b2 : Byte) (h : encode i = op :: ops)
    (hp : op ≠ prefixByte) (hs : i ≠ .stop) : encode (withOperands b1 b2 i) = op :: [b1, b2].take ops.length := by
  cases i with
  | stop => exact absurd rfl hs
  | ldRrD16 | ldA16Sp | jpCcA16 | jpA16 | callCcA16 | callA16 | ldA16A | ldAA16 =>
    cases h
    simp [withOperands, encode]
  | prefixCb | rlcR | rlcHl | rrcR | rrcHl | rlR | rlHl | rrR | rrHl | slaR | slaHl | sraR | sraHl | swapR | swapHl | srlR
  | srlHl | bitBR | bitBHl | resBR | resBHl | setBR | setBHl =>
    cases h
    exact absurd rfl hp
  | _ =>
    cases h
    rfl

/-- Every slot of the primary table but those of STOP and 0xCB, read with zeros as its operand bytes (R98). -/
theorem exists_primaryEntry_encode : ∀ op : Byte, op ≠ 0x10 → op ≠ prefixByte →
    ∃ i ∈ primaryEntry op 0 0, i.wellFormed = true ∧ i ≠ .stop ∧ encode i = op :: List.replicate (lengthOf op - 1) 0 := by
  decide +kernel

/-- Every slot of the secondary table (R98). -/
theorem exists_secondaryEntry_encode : ∀ op2 : Byte,
    ∃ i ∈ secondaryEntry op2, i.wellFormed = true ∧ i ≠ .stop ∧ encode i = [prefixByte, op2] := by decide +kernel

theorem exists_encode (op b1 b2 : Byte) (hop : op ≠ 0x10) :
    ∃ i : Instr, i.wellFormed = true ∧ i ≠ .stop ∧ encode i = op :: [b1, b2].take (lengthOf op - 1) := by
  by_cases hp : op = prefixByte
  · obtain ⟨i, -, hwf, hs, henc⟩ := exists_secondaryEntry_encode b1
    exact ⟨i, hwf, hs, by rw [henc, hp, ← Laws.Length.lengthOf_prefix]; rfl⟩
  · obtain ⟨i, -, hwf, hs, henc⟩ := exists_primaryEntry_encode op hop hp
    exact ⟨withOperands b1 b2 i, by rwa [wellFormed_withOperands], mt withOperands_eq_stop.1 hs,
      by rw [encode_withOperands b1 b2 henc hp hs, List.length_replicate]⟩

/-! ## What the decoder accepts -/

/-- Overwriting in declaration order leaves the last rule that matches in the slot (R95). -/
theorem slot_eq_getLast? (rules : List DispatchRule) (v : Byte) :
    slot rules v = (rules.filter fun q => q.agrees v).getLast? := by
  induction rules using List.reverseRecOn with
  | nil => rfl
  | append_singleton rules q ih =>
    rw [slot, List.foldl_append, ← slot, ih]
    by_cases hq : q.agrees v = true <;> simp [hq]

theorem mem_of_slot {rules : List DispatchRule} {v : Byte} {q : DispatchRule} (h : slot rules v = some q) : q ∈ rules :=
  List.mem_of_mem_filter (List.mem_of_getLast? (slot_eq_getLast? rules v ▸ h))

theorem primaryRules_length : ∀ q ∈ primaryRules, 0 < q.length ∧ q.length ≤ 3 := by decide

/-- One to three bytes (R91), since every rule of the primary list says so. -/
theorem lengthOf_bounds (op : Byte) : 0 < lengthOf op ∧ lengthOf op ≤ 3 := by
  unfold lengthOf
  split
  · next q hq => exact primaryRules_length q (mem_of_slot hq)
  · decide

/-- The operand bytes that `decode` hands to a table entry are the bytes after the opcode, as far as the length reaches. -/
theorem take_getD : ∀ {k : Nat} {tail : List Byte}, k ≤ 2 → k ≤ tail.length →
    [tail.getD 0 0, tail.getD 1 0].take k = tail.take k
  | 0, _, _, _ => rfl
  | 1, _ :: _, _, _ => rfl
  | 2, _ :: _ :: _, _, _ => rfl

/-- Bytes that are not too few for their first byte begin with the encoding of an instruction. -/
theorem exists_encode_append {op : Byte} {tail : List Byte} (hop : op ≠ 0x10) (hlen : lengthOf op ≤ tail.length + 1) :
    ∃ i rest, i.wellFormed = true ∧ i ≠ .stop ∧ op :: tail = encode i ++ rest := by
  obtain ⟨i, hwf, hs, henc⟩ := exists_encode op (tail.getD 0 0) (tail.getD 1 0) hop
  have hle := (lengthOf_bounds op).2
  rw [take_getD (by omega) (by omega)] at henc
  exact ⟨i, tail.drop (lengthOf op - 1), hwf, hs, by rw [henc, List.cons_append, List.take_append_drop]⟩

/-- The pad byte of STOP is not looked at (R102, R311). -/
theorem decode_stop (pad : Byte) (rest : List Byte) : decode (0x10 :: pad :: rest) = .ok (.stop, rest) :=
  decode_two rfl rfl

/-- Settles O7: bytes that begin with an encoding decode to the encoded instruction and to no other. -/
theorem encodeInvertsDecode : Obligations.EncodeInvertsDecode := by
  intro bytes rest i h
  obtain ⟨op, tail, rfl, hlen, -, -⟩ := decode_ok h
  by_cases hop : op = 0x10
  · subst hop
    cases tail with
    | nil => exact absurd hlen (by decide +kernel)
    | cons pad tail =>
      rw [decode_stop] at h
      cases h
      exact ⟨rfl, fun hs => absurd rfl hs, fun _ => ⟨pad, rfl⟩⟩
  · obtain ⟨j, rest', hwf, hs, hbytes⟩ := exists_encode_append hop hlen
    rw [hbytes, decode_encode j rest' hwf] at h
    cases h
    exact ⟨hwf, fun _ => hbytes, fun hstop => absurd hstop hs⟩

/-! ## The tables -/

theorem primaryEntry_isSome (op b1 b2 : Byte) : (primaryEntry op b1 b2).isSome = true := by
  have hdecode : ∃ i rest, decode [op, b1, b2] = .ok (i, rest) := by
    by_cases hop : op = 0x10
    · exact ⟨.stop, [b2], hop ▸ decode_stop b1 [b2]⟩
    · obtain ⟨i, rest, hwf, -, hbytes⟩ := exists_encode_append hop (tail := [b1, b2]) (lengthOf_bounds op).2
      exact ⟨i, rest, hbytes ▸ decode_encode i rest hwf⟩
  obtain ⟨i, rest, h⟩ := hdecode
  obtain ⟨_, _, hcons, -, -, hentry⟩ := decode_ok h
  cases hcons
  exact Option.isSome_of_isSome_bind (Option.isSome_of_eq_some hentry)

theorem secondaryEntry_isSome (op2 : Byte) : (secondaryEntry op2).isSome = true := by
  obtain ⟨i, hi, -⟩ := exists_secondaryEntry_encode op2
  exact Option.isSome_of_mem hi

/-- Settles O8: a filled entry has a rule behind it. -/
theorem everyTableSlotIsFilled : Obligations.EveryTableSlotIsFilled := by
  refine ⟨fun op b1 b2 => ?_, fun op2 => ?_, by decide +kernel, by decide +kernel⟩
  · have hentry := primaryEntry_isSome op b1 b2
    exact ⟨Option.isSome_of_isSome_bind hentry, hentry⟩
  · have hentry := secondaryEntry_isSome op2
    exact ⟨Option.isSome_of_isSome_bind hentry, hentry⟩

/-- Settles O9: the last match is the slot for every rule list; that the constraints leave one match is checked on the tables. -/
theorem overridePriority : Obligations.OverridePriority :=
  ⟨fun v => by rw [slot_eq_getLast?], fun v => by rw [slot_eq_getLast?], by decide +kernel, by decide +kernel,
    by decide +kernel, fun _ _ => rfl⟩

theorem decode_length {op : Byte} {tail rest : List Byte} {i : Instr} (h : decode (op :: tail) = .ok (i, rest)) :
    (op :: tail).length = lengthOf op + rest.length := by
  obtain ⟨_, _, hcons, hlen, rfl, -⟩ := decode_ok h
  cases hcons
  rw [List.length_cons, List.length_drop]
  have hpos := (lengthOf_bounds op).1
  omega

/-- Settles O10: what a successful decoding takes, the filled secondary table, and the lengths of the primary table. -/
theorem lengthByFirstByte : Obligations.LengthByFirstByte := by
  refine ⟨fun _ _ _ _ h => decode_length h, fun op2 rest => ?_, by decide +kernel, by decide +kernel⟩
  obtain ⟨i, hi⟩ := Option.isSome_iff_exists.1 (secondaryEntry_isSome op2)
  rw [hi]
  exact decode_prefixed hi

end Sys2Proof.Machine

/-! # Proofs: the effect of an instruction, operation by operation -/

namespace Sys2Proof.Machine

theorem KeepsControl.refl (s : State) : KeepsControl s s := ⟨rfl, rfl, rfl, rfl, rfl, rfl, rfl⟩

theorem KeepsControl.trans {s t u : State} (h : KeepsControl s t) (k : KeepsControl t u) : KeepsControl s u := by
  simp_all [KeepsControl, KeepsDebug]

theorem HeldOver.trans {s t u : State} (h : HeldOver s t) (k : HeldOver t u) : HeldOver s u := by
  refine ⟨h.1.trans k.1, fun c hc hidle => ?_⟩
  obtain ⟨henv, hstopped, hblocked⟩ := h.2 c (k.1.trans hc) hidle
  obtain ⟨henv', hstopped', hblocked'⟩ := k.2 c hc fun x hx => hidle x (henv ▸ hx)
  exact ⟨henv'.trans henv, hstopped'.trans hstopped, hblocked'.trans hblocked⟩

/-- From `s` to `t`, with PC, SP and F left open: the events in order, the clock units they take, and what is unchanged. Each
operation of a rule extends the effect of those before it, so the effect of an instruction follows the order of its rule. -/
structure Effect (s t : State) (evs : List BusEvent) (except : List Reg8) (stored : List Word) : Prop where
  log : BusLog s t evs
  clock : t.clock = s.clock + totalTicks evs
  regs : KeepsRegs s t except
  control : KeepsControl s t
  held : HeldOver s t
  evolves : Evolves s t stored

namespace Effect
variable {s t u : State} {evs : List BusEvent} {except : List Reg8} {stored : List Word}

theorem refl (s : State) : Effect s s [] except stored :=
  ⟨rfl, rfl, fun _ _ => rfl, .refl s, heldOver_self s, evolves_self s stored⟩

theorem trans {more : List BusEvent} (h : Effect s t evs except stored) (k : Effect t u more except stored) :
    Effect s u (evs ++ more) except stored where
  log := h.log.trans k.log
  clock := by rw [k.clock, h.clock, totalTicks_append, Nat.add_assoc]
  regs r hr := (k.regs r hr).trans (h.regs r hr)
  control := h.control.trans k.control
  held := h.held.trans k.held
  evolves := h.evolves.trans k.evolves

/-- An operation without an event extends an effect by nothing but its frame. -/
theorem quiet (h : Effect s t evs except stored) (k : Effect t u [] except stored) : Effect s u evs except stored :=
  List.append_nil evs ▸ h.trans k

/-! ## The operations that take time (rules R9, R27, R67) -/

theorem tick (n : Nat) (h : Effect s t evs except stored) : Effect s (t.tick n) (evs ++ [.tick n]) except stored :=
  h.trans ⟨tick_history t n, tick_clock t n, fun r _ => tick_reg t n r, by simp [KeepsControl, KeepsDebug],
    heldOver_tick n (heldOver_self t), evolves_tick_self t n stored⟩

theorem read (a : Word) (h : Effect s t evs except stored) :
    Effect s (t.read8 a).2 (evs ++ [.read a (t.peek a), .tick 4]) except stored :=
  h.trans ⟨tick_history (t.busRead a).2 4, tick_clock (t.busRead a).2 4, fun r _ => by simp,
    by simp [KeepsControl, KeepsDebug], heldOver_tick 4 (heldOver_self t), evolves_tick 4 (evolves_self t stored)⟩

theorem write (a : Word) (v : Byte) (ha : a ∈ stored) (h : Effect s t evs except stored) :
    Effect s (t.write8 a v) (evs ++ [.write a v, .tick 4]) except stored :=
  h.trans ⟨tick_history (t.busWrite a v) 4, tick_clock (t.busWrite a v) 4, fun r _ => by simp,
    by simp [KeepsControl, KeepsDebug], heldOver_tick 4 (heldOver_self t),
    evolves_tick 4 (evolves_busWrite a v ha (evolves_self t stored))⟩

/-! ## The writes of registers -/

theorem setPc (v : Word) (h : Effect s t evs except stored) : Effect s (t.setPc v) evs except stored :=
  h.quiet ⟨rfl, rfl, fun r _ => setPc_reg t v r, .refl t, heldOver_self t, evolves_self t stored⟩

theorem advance (n : Nat) (h : Effect s t evs except stored) : Effect s (t.advance n) evs except stored := h.setPc _

theorem setSp (v : Word) (h : Effect s t evs except stored) : Effect s (t.setSp v) evs except stored :=
  h.quiet ⟨rfl, rfl, fun r _ => setSp_reg t v r, .refl t, heldOver_self t, evolves_self t stored⟩

theorem setF (v : Byte) (h : Effect s t evs except stored) : Effect s (t.setF v) evs except stored :=
  h.quiet ⟨rfl, rfl, fun r _ => setF_reg t v r, .refl t, heldOver_self t, evolves_self t stored⟩

theorem setReg (r : Reg8) (v : Byte) (hr : r ∈ except) (h : Effect s t evs except stored) :
    Effect s (t.setReg r v) evs except stored :=
  h.quiet ⟨setReg_history t r v, setReg_clock t r v, fun q hq => setReg_reg_other t r v q fun e => hq (e ▸ hr),
    by simp [KeepsControl, KeepsDebug], by simp, by simp⟩

theorem setHl (v : Word) (hh : .h ∈ except) (hl : .l ∈ except) (h : Effect s t evs except stored) :
    Effect s (t.setHl v) evs except stored := (h.setReg .h _ hh).setReg .l _ hl

theorem setPair16 (p : Pair16) (v : Word) (hp : ∀ r ∈ pairRegs p, r ∈ except) (h : Effect s t evs except stored) :
    Effect s (t.setPair16 p v) evs except stored := by
  cases p with
  | bc => exact (h.setReg .b _ (hp _ (by decide))).setReg .c _ (hp _ (by decide))
  | de => exact (h.setReg .d _ (hp _ (by decide))).setReg .e _ (hp _ (by decide))
  | hl => exact h.setHl v (hp _ (by decide)) (hp _ (by decide))
  | sp => exact h.setSp v

/-! ## The openings (rules R9, R352) -/

theorem begin1 (s : State) : Effect s s.begin1 [.tick 4] except stored := (refl s).tick 4

theorem begin2 (s : State) :
    Effect s s.begin2 [.tick 4, .read (s.pc + 1) ((s.tick 4).peek (s.pc + 1)), .tick 4] except stored := by
  rw [begin2_eq]
  exact (begin1 s).read (s.pc + 1)

theorem begin3 (s : State) :
    Effect s s.begin3 [.tick 4, .read (s.pc + 1) ((s.tick 4).peek (s.pc + 1)), .tick 4,
      .read (s.pc + 2) (s.begin2.peek (s.pc + 2)), .tick 4] except stored := by
  rw [begin3_eq]
  exact (begin2 s).read (s.pc + 2)

/-! ## What a statement asks of an effect -/

theorem frame (h : Effect s t evs except stored) : Frame s t except stored :=
  frame_of h.regs h.control h.held h.evolves

/-- What is read after an effect that stored nothing is what memory held before, where the environment spares it (R61, R74). -/
theorem holds (h : Effect s t evs except []) (a : Word) : s.Holds (s.clock + totalTicks evs) a (t.peek a) :=
  h.evolves.holds _ (Nat.le_of_eq h.clock) a

/-- The byte written stands at its address, unless the environment writes there meanwhile (R61, R74). -/
theorem settles_write (a : Word) (v : Byte) (h : Effect s t evs except stored) : Settles s (t.write8 a v) a v :=
  settles_tick a v 4 (settles_busWrite a v h.evolves.1)

end Effect

/-! ## The operands, after the opening of a rule -/

section
variable (s : State) (n : Byte)
theorem begin1_a : s.begin1.a = s.a := tick_a s 4
theorem begin1_reg (r : Reg8) : s.begin1.reg r = s.reg r := tick_reg s 4 r
theorem begin1_bc : s.begin1.bc = s.bc := tick_bc s 4
theorem begin1_de : s.begin1.de = s.de := tick_de s 4
theorem begin1_hl : s.begin1.hl = s.hl := tick_hl s 4
theorem begin1_highAddr_c : s.begin1.highAddr s.begin1.c = s.highAddr s.c := by simp
theorem begin2_a : s.begin2.a = s.a := by simp
theorem begin2_hl : s.begin2.hl = s.hl := by simp
theorem begin2_highAddr : s.begin2.highAddr n = s.highAddr n := by simp
theorem begin3_a : s.begin3.a = s.a := by simp
end

/-! ## The writes of register pairs and of F -/

section
variable (s : State) (p : Pair16) (v : Word)
@[simp] theorem setHl_a : (s.setHl v).a = s.a := rfl
@[simp] theorem setHl_f : (s.setHl v).f = s.f := rfl
@[simp] theorem setHl_pc : (s.setHl v).pc = s.pc := rfl
@[simp] theorem setHl_sp : (s.setHl v).sp = s.sp := rfl
@[simp] theorem setPc_pair16 : (s.setPc v).pair16 p = s.pair16 p := by cases p <;> rfl
@[simp] theorem setPair16_pc : (s.setPair16 p v).pc = s.pc := by cases p <;> rfl
@[simp] theorem setPair16_f : (s.setPair16 p v).f = s.f := by cases p <;> rfl

@[simp] theorem setPair16_pair16 : (s.setPair16 p v).pair16 p = v := by
  cases p with
  | bc => exact setBc_bc s v
  | de => exact setDe_de s v
  | hl => exact setHl_hl s v
  | sp => rfl

theorem setPair16_sp_of_ne (hp : p ≠ .sp) : (s.setPair16 p v).sp = s.sp := by
  cases p with
  | sp => exact absurd rfl hp
  | bc | de | hl => rfl
end

theorem flagsAre_of_pack {t : State} {z n h c : Bool} (hf : t.f = packFlags z n h c) : FlagsAre t z n h c := by
  simp [FlagsAre, hf]

end Sys2Proof.Machine

/-! # Proofs: the loads and stores (40_loads_stores.md) -/

namespace Sys2Proof.Machine

/-- Settles O28: the opening, then the write of the destination. -/
theorem loadRegisterOrImmediate : Obligations.LoadRegisterOrImmediate := by
  intro s dst src n
  have hdst : dst ∈ [dst] := List.mem_singleton_self dst
  constructor
  · have h : Effect s _ _ [dst] [] := ((Effect.begin1 s).setReg dst (s.begin1.reg src) hdst).advance 1
    exact ⟨_, rfl, ⟨by simp, h.clock, h.log⟩, by simp, by simp, by simp, h.frame⟩
  · have h : Effect s _ _ [dst] [] := ((Effect.begin2 s).setReg dst n hdst).advance 2
    exact ⟨_, rfl, ⟨by simp, h.clock, _, h.log, readsSecondByte_tick s⟩, by simp, by simp, by simp, h.frame⟩

/-! ## One byte through a pointer (rules R132, R133, R136 to R143, R148, R149)

An operand of the rule is read after the opcode's machine cycle: `a`, `v` there are `p`, `w` when the instruction begins. -/

section
variable {s : State} {i : Instr} {a p : Word}

theorem loadThrough_completes {dst : Reg8}
    (hx : exec i s = .next (s.begin1.withRead a fun v u => (u.setReg dst v).advance 1)) (ha : a = p) :
    ∃ v t, exec i s = .next t ∧ ReadCycle s t p v ∧ t.reg dst = v ∧ t.f = s.f ∧ t.sp = s.sp ∧ Frame s t [dst] [] := by
  subst ha
  have hopen : Effect s _ _ [dst] [] := .begin1 s
  have h := ((hopen.read a).setReg dst (s.begin1.peek a) (List.mem_singleton_self dst)).advance 1
  exact ⟨_, _, hx, ⟨by simp, h.clock, h.log, hopen.holds a⟩, by simp, by simp, by simp, h.frame⟩

theorem storeThrough_completes {v w : Byte} (hx : exec i s = .next ((s.begin1.write8 a v).advance 1)) (ha : a = p)
    (hv : v = w) :
    ∃ t, exec i s = .next t ∧ WriteCycle s t p w ∧ t.f = s.f ∧ t.sp = s.sp ∧ Frame s t [] [p] := by
  subst ha hv
  have hopen : Effect s _ _ [] [a] := .begin1 s
  have h := (hopen.write a v (List.mem_singleton_self a)).advance 1
  exact ⟨_, hx, ⟨by simp, h.clock, h.log, (hopen.settles_write a v).stores⟩, by simp, by simp, h.frame⟩

/-- The load of A through HL with a move of the pointer after the access. -/
theorem loadMoving_completes (move : Word → Word)
    (hx : exec i s = .next (s.begin1.withRead s.begin1.hl fun v u => ((u.setReg .a v).setHl (move u.hl)).advance 1)) :
    ∃ v t, exec i s = .next t ∧ ReadCycle s t s.hl v ∧ t.a = v ∧ t.hl = move s.hl ∧ t.f = s.f ∧ t.sp = s.sp ∧
      Frame s t [.a, .h, .l] [] := by
  rw [begin1_hl] at hx
  have hopen : Effect s _ _ [.a, .h, .l] [] := .begin1 s
  have h := (((hopen.read s.hl).setReg .a (s.begin1.peek s.hl) (by decide)).setHl (move (s.begin1.read8 s.hl).2.hl)
    (by decide) (by decide)).advance 1
  exact ⟨_, _, hx, ⟨by simp, h.clock, h.log, hopen.holds s.hl⟩, by simp, by simp, by simp, by simp, h.frame⟩

/-- The store of A through HL with a move of the pointer after the access. -/
theorem storeMoving_completes (move : Word → Word)
    (hx : exec i s = .next (((s.begin1.write8 s.begin1.hl s.begin1.a).setHl
      (move (s.begin1.write8 s.begin1.hl s.begin1.a).hl)).advance 1)) :
    ∃ t, exec i s = .next t ∧ WriteCycle s t s.hl s.a ∧ t.hl = move s.hl ∧ t.f = s.f ∧ t.sp = s.sp ∧
      Frame s t [.h, .l] [s.hl] := by
  rw [begin1_hl, begin1_a] at hx
  have hopen : Effect s _ _ [.h, .l] [s.hl] := .begin1 s
  have h := ((hopen.write s.hl s.a (List.mem_singleton_self _)).setHl (move (s.begin1.write8 s.hl s.a).hl) (by decide)
    (by decide)).advance 1
  exact ⟨_, hx, ⟨by simp, h.clock, h.log, (hopen.settles_write s.hl s.a).stores⟩, by simp, by simp, by simp, h.frame⟩

end

/-- Settles O29: four loads through a pointer. -/
theorem loadThroughPointer : Obligations.LoadThroughPointer := fun s _ =>
  ⟨loadThrough_completes rfl (begin1_hl s), loadThrough_completes (dst := .a) rfl (begin1_bc s),
    loadThrough_completes (dst := .a) rfl (begin1_de s), loadThrough_completes (dst := .a) rfl (begin1_highAddr_c s)⟩

/-- Settles O30: four stores through a pointer. -/
theorem storeThroughPointer : Obligations.StoreThroughPointer := fun s q =>
  ⟨storeThrough_completes rfl (begin1_hl s) (begin1_reg s q), storeThrough_completes rfl (begin1_bc s) (begin1_a s),
    storeThrough_completes rfl (begin1_de s) (begin1_a s), storeThrough_completes rfl (begin1_highAddr_c s) (begin1_a s)⟩

/-- Settles O31: a load and a store, each with either move of the pointer. -/
theorem pointerIncrementAndDecrement : Obligations.PointerIncrementAndDecrement := fun _ =>
  ⟨loadMoving_completes (· + 1) rfl, loadMoving_completes (· - 1) rfl, storeMoving_completes (· + 1) rfl,
    storeMoving_completes (· - 1) rfl⟩

/-! ## Absolute and high-page loads and stores (rules R135, R144 to R147, R151) -/

/-- Settles O32: the opening reads the operand bytes, and A takes the byte that memory holds after it. -/
theorem loadAbsoluteAndHighPage : Obligations.LoadAbsoluteAndHighPage := by
  intro s a n
  constructor
  · have hopen : Effect s _ _ [.a] [] := .begin3 s
    have h := ((hopen.read a).setReg .a (s.begin3.peek a) (by decide)).advance 3
    exact ⟨_, _, _, _, rfl, readsBothBytes_begin2 s, by simp, by simp, h.clock, h.log, hopen.holds a, by simp, by simp,
      h.frame⟩
  · have hx : exec (.ldhAA8 n) s = .next (s.begin2.withRead (s.highAddr n) fun v u => (u.setReg .a v).advance 2) := by
      rw [← begin2_highAddr]
      rfl
    have hopen : Effect s _ _ [.a] [] := .begin2 s
    have h := ((hopen.read (s.highAddr n)).setReg .a (s.begin2.peek (s.highAddr n)) (by decide)).advance 2
    exact ⟨_, _, _, hx, readsSecondByte_tick s, by simp, by simp, h.clock, h.log, hopen.holds (s.highAddr n), by simp,
      by simp, h.frame⟩

/-- A store after the read of one operand byte; its operands `a`, `v` are `p`, `w` when the instruction begins. -/
theorem storeAfterSecondByte_completes {s : State} {i : Instr} {a p : Word} {v w : Byte}
    (hx : exec i s = .next ((s.begin2.write8 a v).advance 2)) (ha : a = p) (hv : v = w) :
    ∃ x t, exec i s = .next t ∧ ReadsSecondByte s x ∧ t.pc = s.pc + 2 ∧ t.clock = s.clock + 12 ∧
      BusLog s t [.tick 4, .read (s.pc + 1) x, .tick 4, .write p w, .tick 4] ∧ Stores s t p w ∧
      t.f = s.f ∧ t.sp = s.sp ∧ Frame s t [] [p] := by
  subst ha hv
  have hopen : Effect s _ _ [] [a] := .begin2 s
  have h := (hopen.write a v (List.mem_singleton_self a)).advance 2
  exact ⟨_, _, hx, readsSecondByte_tick s, by simp, h.clock, h.log, (hopen.settles_write a v).stores, by simp, by simp,
    h.frame⟩

/-- Settles O33: two stores after one operand byte, and one after two. -/
theorem storeImmediateAbsoluteAndHighPage : Obligations.StoreImmediateAbsoluteAndHighPage := by
  intro s a n
  refine ⟨storeAfterSecondByte_completes rfl (begin2_hl s) rfl, ?_,
    storeAfterSecondByte_completes rfl (begin2_highAddr s n) (begin2_a s)⟩
  have hx : exec (.ldA16A a) s = .next ((s.begin3.write8 a s.a).advance 3) := by
    rw [← begin3_a]
    rfl
  have hopen : Effect s _ _ [] [a] := .begin3 s
  have h := (hopen.write a s.a (List.mem_singleton_self a)).advance 3
  exact ⟨_, _, _, hx, readsBothBytes_begin2 s, by simp, h.clock, h.log, (hopen.settles_write a s.a).stores, by simp, by simp,
    h.frame⟩

/-- Settles O35: the second store leaves the first byte alone, since an address is never its own successor. -/
theorem storeStackPointer : Obligations.StoreStackPointer := by
  intro s a
  have hx : exec (.ldA16Sp a) s =
      .next (((s.begin3.write8 a (loByte s.sp)).write8 (a + 1) (hiByte s.sp)).advance 3) := by
    simp [exec, execLdA16Sp]
  have hopen : Effect s _ _ [] [a, a + 1] := .begin3 s
  have hlow := hopen.write a (loByte s.sp) (by simp)
  have h := (hlow.write (a + 1) (hiByte s.sp) (by simp)).advance 3
  have hkept := settles_busWrite_other a (a + 1) _ (hiByte s.sp) (word_ne_add_one a) (hopen.settles_write a (loByte s.sp))
  exact ⟨_, _, _, hx, readsBothBytes_begin2 s, by simp, h.clock, h.log, (settles_tick a _ 4 hkept).stores,
    (hlow.settles_write (a + 1) (hiByte s.sp)).stores, by simp, by simp, h.frame⟩

/-! ## Words (rules R150, R152, R153, R307) -/

/-- Settles O34: the write of the pair after its immediate, and of SP before an internal cycle. -/
theorem loadWord : Obligations.LoadWord := by
  intro s p v
  constructor
  · have h : Effect s _ _ (pairRegs p) [] := ((Effect.begin3 s).setPair16 p v fun _ hr => hr).advance 3
    exact ⟨_, _, _, rfl, by simp, fun hp => by simp [setPair16_sp_of_ne _ p v hp], by simp, h.clock, h.log,
      readsBothBytes_begin2 s, by simp, h.frame⟩
  · have h : Effect s _ _ [] [] := (((Effect.begin1 s).setSp s.begin1.hl).tick 4).advance 1
    exact ⟨_, rfl, ⟨by simp, h.clock, h.log⟩, by simp, by simp, h.frame⟩

/-- Settles O36: both write the sum and flags of `addSpSigned`; they differ in the register and the internal cycles. -/
theorem stackPointerPlusDisplacement : Obligations.StackPointerPlusDisplacement := by
  intro s e
  constructor
  · have h : Effect s _ _ [.h, .l] [] := ((((Effect.begin2 s).setF (addSpSigned s.begin2.sp e).2).setHl
      (addSpSigned s.begin2.sp e).1 (by decide) (by decide)).tick 4).advance 2
    exact ⟨_, _, rfl, readsSecondByte_tick s, by simp, flagsAre_of_pack (by simp), by simp, h.clock, h.log, by simp, h.frame⟩
  · have h : Effect s _ _ [] [] := (((((Effect.begin2 s).setF (addSpSigned s.begin2.sp e).2).tick 4).tick 4).setSp
      (addSpSigned s.begin2.sp e).1).advance 2
    exact ⟨_, _, rfl, readsSecondByte_tick s, by simp, flagsAre_of_pack (by simp), by simp, h.clock, h.log, h.frame⟩

end Sys2Proof.Machine

/-! # Proofs: 8-bit arithmetic and logic (41_alu8.md) -/

namespace Sys2Proof.Machine

/-! ## What a rule that writes a register and F leaves (rules R8, R23) -/

theorem flagsAre_of_masked {t : State} {v : Byte} {z n h c : Bool} (hf : t.f = v &&& 0xF0) (hv : v = packFlags z n h c) :
    FlagsAre t z n h c := flagsAre_of_pack (by simp [hf, hv])

theorem begin1_f (s : State) : s.begin1.f = s.f := tick_f s 4

section
variable (s : State) (op : AccOp) (v : Byte) (n : Nat)
@[simp] theorem accumulate_a : (s.accumulate op v n).a = (op s.a v (flagC s.f)).1 := rfl
@[simp] theorem accumulate_f : (s.accumulate op v n).f = (op s.a v (flagC s.f)).2 &&& 0xF0 := rfl
@[simp] theorem accumulate_pc : (s.accumulate op v n).pc = s.pc + BitVec.ofNat 16 n := rfl
@[simp] theorem accumulate_sp : (s.accumulate op v n).sp = s.sp := rfl
@[simp] theorem compare_f : (s.compare op v n).f = (op s.a v (flagC s.f)).2 &&& 0xF0 := rfl
@[simp] theorem compare_pc : (s.compare op v n).pc = s.pc + BitVec.ofNat 16 n := rfl
@[simp] theorem compare_sp : (s.compare op v n).sp = s.sp := rfl
end

namespace Effect
variable {s t : State} {evs : List BusEvent} {except : List Reg8} {stored : List Word}

theorem accumulate (op : AccOp) (v : Byte) (n : Nat) (ha : .a ∈ except) (h : Effect s t evs except stored) :
    Effect s (t.accumulate op v n) evs except stored := ((h.setReg .a _ ha).setF _).advance n

theorem compare (op : AccOp) (v : Byte) (n : Nat) (h : Effect s t evs except stored) :
    Effect s (t.compare op v n) evs except stored := (h.setF _).advance n

end Effect

/-! ## Accumulator operations in their three operand forms (rules R171 to R195) -/

section
variable {reg : Reg8 → Instr} {mem : Instr} {imm : Byte → Instr} {E : State → State → Byte → Prop}

/-- The three forms differ in the opening that gives the operand and share `fin`, which goes on with the operand and the length.
Where `fin` emits no event and moves PC by the length, each form has the cycles of its opening. -/
theorem aluForms_of_effect {fin : State → Byte → Nat → State} (except : List Reg8)
    (hreg : ∀ r s, exec (reg r) s = .next (fin s.begin1 (s.begin1.reg r) 1))
    (hmem : ∀ s, exec mem s = .next (s.begin1.withRead s.begin1.hl fun v u => fin u v 1))
    (himm : ∀ n s, exec (imm n) s = .next (fin s.begin2 n 2))
    (heffect : ∀ {s u : State} {evs} (v n), Effect s u evs except [] → Effect s (fin u v n) evs except [])
    (hpc : ∀ u v n, (fin u v n).pc = u.pc + BitVec.ofNat 16 n)
    (hE : ∀ {s u : State} (v n), u.a = s.a → u.f = s.f → u.sp = s.sp → Frame s (fin u v n) except [] →
      E s (fin u v n) v) :
    AluForms reg mem imm E := by
  intro s
  refine ⟨fun r => ?_, ?_, fun n => ?_⟩
  · have h := heffect (s.reg r) 1 (.begin1 s)
    rw [hreg, begin1_reg]
    exact ⟨_, rfl, ⟨by simp [hpc], h.clock, h.log⟩, hE _ _ (by simp) (by simp) (by simp) h.frame⟩
  · have hopen : Effect s _ _ except [] := .begin1 s
    have h := heffect (s.begin1.peek s.hl) 1 (hopen.read s.hl)
    rw [hmem, begin1_hl]
    exact ⟨_, _, rfl, ⟨by simp [hpc], h.clock, h.log, hopen.holds s.hl⟩,
      hE _ _ (by simp) (by simp) (by simp) h.frame⟩
  · have h := heffect n 2 (.begin2 s)
    rw [himm]
    exact ⟨_, rfl, ⟨by simp [hpc], h.clock, _, h.log, readsSecondByte_tick s⟩,
      hE _ _ (by simp) (by simp) (by simp) h.frame⟩

/-- An operation that writes A: its statement follows from the values of A and F. -/
theorem accumulate_forms (op : AccOp)
    (hreg : ∀ r s, exec (reg r) s = .next (s.begin1.accumulate op (s.begin1.reg r) 1))
    (hmem : ∀ s, exec mem s = .next (s.begin1.withRead s.begin1.hl fun v u => u.accumulate op v 1))
    (himm : ∀ n s, exec (imm n) s = .next (s.begin2.accumulate op n 2))
    (hE : ∀ s t v, t.a = (op s.a v (flagC s.f)).1 → t.f = (op s.a v (flagC s.f)).2 &&& 0xF0 →
      t.sp = s.sp ∧ Frame s t [.a] [] → E s t v) :
    AluForms reg mem imm E :=
  aluForms_of_effect [.a] hreg hmem himm (fun v n h => h.accumulate op v n (by decide)) (fun u v n => accumulate_pc u op v n)
    fun v n ha hf hsp hframe => hE _ _ v (by simp [ha, hf]) (by simp [ha, hf]) ⟨by simp [hsp], hframe⟩

end

/-- Settles O37: the number and flags of `add8`. -/
theorem addToAccumulator : Obligations.AddToAccumulator :=
  accumulate_forms (fun a v _ => add8 a v) (fun _ _ => rfl) (fun _ => rfl) (fun _ _ => rfl) fun s _ v ha hf hrest =>
    ⟨ha ▸ add8_toNat s.a v, flagsAre_of_masked hf (ha ▸ rfl), hrest⟩

/-- Settles O38: the number and flags of `adc8`. -/
theorem addWithCarry : Obligations.AddWithCarry :=
  accumulate_forms adc8 (fun _ _ => rfl) (fun _ => rfl) (fun _ _ => rfl) fun s _ v ha hf hrest =>
    ⟨ha ▸ adc8_toNat s.a v (flagC s.f), flagsAre_of_masked hf (ha ▸ rfl), hrest⟩

/-- Settles O39: the number and flags of `sub8`. -/
theorem subtract : Obligations.Subtract :=
  accumulate_forms (fun a v _ => sub8 a v) (fun _ _ => rfl) (fun _ => rfl) (fun _ _ => rfl) fun s _ v ha hf hrest =>
    ⟨ha ▸ sub8_toNat s.a v, flagsAre_of_masked hf (ha ▸ rfl), hrest⟩

/-- Settles O40: the number and flags of `sbc8`. -/
theorem subtractWithCarry : Obligations.SubtractWithCarry :=
  accumulate_forms sbc8 (fun _ _ => rfl) (fun _ => rfl) (fun _ _ => rfl) fun s _ v ha hf hrest =>
    ⟨ha ▸ sbc8_toNat s.a v (flagC s.f), flagsAre_of_masked hf (ha ▸ rfl), hrest⟩

/-- Settles O41: one accumulator operation for each of the three. -/
theorem bitwiseLogic : Obligations.BitwiseLogic :=
  ⟨accumulate_forms (fun a v _ => and8 a v) (fun _ _ => rfl) (fun _ => rfl) (fun _ _ => rfl) fun _ _ _ ha hf hrest =>
      ⟨ha, flagsAre_of_masked hf (ha ▸ rfl), hrest⟩,
    accumulate_forms (fun a v _ => xor8 a v) (fun _ _ => rfl) (fun _ => rfl) (fun _ _ => rfl) fun _ _ _ ha hf hrest =>
      ⟨ha, flagsAre_of_masked hf (ha ▸ rfl), hrest⟩,
    accumulate_forms (fun a v _ => or8 a v) (fun _ _ => rfl) (fun _ => rfl) (fun _ _ => rfl) fun _ _ _ ha hf hrest =>
      ⟨ha, flagsAre_of_masked hf (ha ▸ rfl), hrest⟩⟩

/-- Settles O42: the flags of `sub8`, whose difference is zero exactly when the operands are equal. -/
theorem compareWritesOnlyFlags : Obligations.CompareWritesOnlyFlags :=
  aluForms_of_effect [] (fun _ _ => rfl) (fun _ => rfl) (fun _ _ => rfl)
    (fun v n h => h.compare (fun a v _ => sub8 a v) v n) (fun u v n => compare_pc u _ v n)
    fun v n ha hf hsp hframe =>
      ⟨flagsAre_of_masked (compare_f _ _ v n) (by simp [sub8_eq_zero, ha]), by simp [hsp], hframe⟩

/-! ## A register and F (rules R196, R198, R200 to R207) -/

section
variable {s : State} {i : Instr}

/-- The register and F take the two results of an operation on them, in the opcode's machine cycle. -/
theorem updateReg_completes {r : Reg8} (op : Byte → Byte → Byte × Byte)
    (hx : exec i s = .next (((s.begin1.setReg r (op (s.begin1.reg r) s.begin1.f).1).setF
      (op (s.begin1.reg r) s.begin1.f).2).advance 1)) :
    ∃ t, exec i s = .next t ∧ OneCycle s t ∧ t.reg r = (op (s.reg r) s.f).1 ∧ t.f = (op (s.reg r) s.f).2 &&& 0xF0 ∧
      t.sp = s.sp ∧ Frame s t [r] [] := by
  rw [begin1_reg, begin1_f] at hx
  have h : Effect s _ _ [r] [] := (((Effect.begin1 s).setReg r (op (s.reg r) s.f).1 (List.mem_singleton_self r)).setF
    (op (s.reg r) s.f).2).advance 1
  exact ⟨_, hx, ⟨by simp, h.clock, h.log⟩, by simp, rfl, by simp, h.frame⟩

/-- F alone is written, in the opcode's machine cycle. -/
theorem updateF_completes (op : Byte → Byte) (hx : exec i s = .next ((s.begin1.setF (op s.begin1.f)).advance 1)) :
    ∃ t, exec i s = .next t ∧ OneCycle s t ∧ t.f = op s.f &&& 0xF0 ∧ t.sp = s.sp ∧ Frame s t [] [] := by
  rw [begin1_f] at hx
  have h : Effect s _ _ [] [] := ((Effect.begin1 s).setF (op s.f)).advance 1
  exact ⟨_, hx, ⟨by simp, h.clock, h.log⟩, rfl, by simp, h.frame⟩

/-- The byte at HL is read, F is written, and the result is written back (R197, R199). -/
theorem updateMem_completes (op : Byte → Byte → Byte × Byte)
    (hx : exec i s = .next (s.begin1.withRead s.begin1.hl fun x u =>
      ((u.setF (op x u.f).2).write8 u.hl (op x u.f).1).advance 1)) :
    ∃ x t, exec i s = .next t ∧ t.f = (op x s.f).2 &&& 0xF0 ∧ t.pc = s.pc + 1 ∧ t.clock = s.clock + 12 ∧
      BusLog s t [.tick 4, .read s.hl x, .tick 4, .write s.hl (op x s.f).1, .tick 4] ∧ s.Holds (s.clock + 4) s.hl x ∧
      Stores s t s.hl (op x s.f).1 ∧ t.sp = s.sp ∧ Frame s t [] [s.hl] := by
  have hu : (s.begin1.read8 s.hl).2.f = s.f ∧ (s.begin1.read8 s.hl).2.hl = s.hl := by simp
  have hread := ((Effect.begin1 s (except := []) (stored := [s.hl])).read s.hl).setF (op (s.begin1.peek s.hl) s.f).2
  have h := (hread.write s.hl (op (s.begin1.peek s.hl) s.f).1 (List.mem_singleton_self _)).advance 1
  rw [begin1_hl, State.withRead, hu.1, hu.2] at hx
  exact ⟨_, _, hx, by simp, by simp, h.clock, h.log, (Effect.begin1 s (except := [])).holds s.hl,
    (hread.settles_write s.hl _).stores, by simp, h.frame⟩

/-- A rotate of the accumulator, by the number it gives. -/
theorem rotateAcc_completes {n : Nat} (op : Byte → Bool → Byte × Bool) (hx : exec i s = .next (s.begin1.rotateAcc op))
    (hn : (op s.a (flagC s.f)).1.toNat = n) :
    ∃ t, exec i s = .next t ∧ OneCycle s t ∧ t.a.toNat = n ∧
      FlagsAre t s.config.accRotZ false false (op s.a (flagC s.f)).2 ∧ t.sp = s.sp ∧ Frame s t [.a] [] := by
  obtain ⟨t, ht, hcycle, ha, hf, hrest⟩ := updateReg_completes (r := .a)
    (fun a f => ((op a (flagC f)).1, accRotFlags s.begin1.config.accRotZ (op a (flagC f)).2)) hx
  exact ⟨t, ht, hcycle, (congrArg BitVec.toNat ha).trans hn, flagsAre_of_masked hf (by simp), hrest⟩

end

/-- Settles O43: the numbers and flags of `inc8` and `dec8`. -/
theorem incrementRegister : Obligations.IncrementRegister := by
  intro s r
  constructor
  · obtain ⟨t, ht, hcycle, hr, hf, hrest⟩ := updateReg_completes (i := .incR r) (s := s) inc8 rfl
    exact ⟨t, ht, hcycle, hr ▸ inc8_toNat _ _, flagsAre_of_masked hf (hr ▸ rfl), hrest⟩
  · obtain ⟨t, ht, hcycle, hr, hf, hrest⟩ := updateReg_completes (i := .decR r) (s := s) dec8 rfl
    exact ⟨t, ht, hcycle, hr ▸ dec8_toNat _ _, flagsAre_of_masked hf (hr ▸ rfl), hrest⟩

/-- Settles O44: the numbers and flags of `inc8` and `dec8`, on the byte read. -/
theorem incrementMemory : Obligations.IncrementMemory := by
  intro s
  constructor
  · obtain ⟨x, t, ht, hf, hrest⟩ := updateMem_completes (i := .incHl) (s := s) inc8 rfl
    exact ⟨x, _, t, ht, inc8_toNat x s.f, flagsAre_of_masked hf rfl, hrest⟩
  · obtain ⟨x, t, ht, hf, hrest⟩ := updateMem_completes (i := .decHl) (s := s) dec8 rfl
    exact ⟨x, _, t, ht, dec8_toNat x s.f, flagsAre_of_masked hf rfl, hrest⟩

/-! ## Decimal adjust (rule R200) -/

theorem daa8_toNat_of_add {a f : Byte} (hn : flagN f = false) :
    (daa8 a f).1.toNat = (a.toNat + (if flagC f = true ∨ 0x99 < a.toNat then 0x60 else 0) +
      (if flagH f = true ∨ 9 < a.toNat % 16 then 0x06 else 0)) % 256 := by
  simp [daa8, hn, daaAfterAdd]

theorem daa8_toNat_of_sub {a f : Byte} (hn : flagN f = true) :
    ((daa8 a f).1.toNat : Int) = ((a.toNat : Int) - (if flagC f = true then 0x60 else 0) -
      (if flagH f = true then 0x06 else 0)) % 256 := by
  rw [daa8, if_pos hn]
  exact ofInt_toNat8 _

/-- Settles O45: N of the original F decides between the two corrections. -/
theorem decimalAdjust : Obligations.DecimalAdjust := by
  intro s
  obtain ⟨t, ht, hcycle, ha, hf, hsp, hframe⟩ := updateReg_completes (i := .daa) (s := s) (r := .a) daa8 rfl
  simp only [reg_a] at ha hf
  refine ⟨t, ht, hcycle, hsp, hframe, fun hn => ⟨ha ▸ daa8_toNat_of_add hn, flagsAre_of_masked hf ?_⟩,
    fun hn => ⟨ha ▸ daa8_toNat_of_sub hn, flagsAre_of_masked hf ?_⟩⟩
  · simp [daa8_flags, hn, ha]
  · simp [daa8_flags, hn, ha]

/-! ## Flag operations and accumulator rotates (rules R201 to R207) -/

/-- Settles O46: one write of A and F, and two of F alone. -/
theorem complementAndCarryFlag : Obligations.ComplementAndCarryFlag := by
  intro s
  refine ⟨?_, ?_, ?_⟩
  · obtain ⟨t, ht, hcycle, ha, hf, hrest⟩ := updateReg_completes (i := .cpl) (s := s) (r := .a)
      (fun a f => (a ^^^ 0xFF, packFlags (flagZ f) true true (flagC f))) rfl
    exact ⟨t, ht, hcycle, ha, flagsAre_of_masked hf rfl, hrest⟩
  · obtain ⟨t, ht, hcycle, hf, hrest⟩ := updateF_completes (i := .scf) (s := s)
      (fun f => packFlags (flagZ f) false false true) rfl
    exact ⟨t, ht, hcycle, flagsAre_of_masked hf rfl, hrest⟩
  · obtain ⟨t, ht, hcycle, hf, hrest⟩ := updateF_completes (i := .ccf) (s := s)
      (fun f => packFlags (flagZ f) false false (!flagC f)) rfl
    exact ⟨t, ht, hcycle, flagsAre_of_masked hf rfl, hrest⟩

/-- Settles O47: the four rotates, by their numbers. -/
theorem accumulatorRotates : Obligations.AccumulatorRotates := by
  intro s
  obtain ⟨hrlc, hrrc, hrl, hrr, -⟩ := shift_table s.a (flagC s.f)
  exact ⟨rotateAcc_completes (fun x _ => rlc8 x) rfl hrlc, rotateAcc_completes (fun x _ => rrc8 x) rfl hrrc,
    rotateAcc_completes rl8 rfl hrl, rotateAcc_completes rr8 rfl hrr⟩

end Sys2Proof.Machine

/-! # Proofs: the prefixed instructions (42_cb_prefixed.md) -/

namespace Sys2Proof.Machine

/-- A write of F alone, masked or back as it was, adds nothing to an effect. -/
theorem Effect.withF {s t : State} {evs : List BusEvent} {except : List Reg8} {stored : List Word} (v : Byte)
    (h : Effect s t evs except stored) : Effect s { t with f := v } evs except stored :=
  h.quiet ⟨rfl, rfl, fun r _ => by cases r <;> rfl, .refl t, heldOver_self t, evolves_self t stored⟩

/-! ## What the forms after `CBFetch` share (rules R230 to R252) -/

section
variable {s : State} {i : Instr}

/-- The byte at HL is read, and the result of `op` on it and F is written back; before the write F becomes `fl` of them, which
is F itself where the rule writes no flag. -/
theorem updatePrefixedMem_completes (op fl : Byte → Byte → Byte)
    (hx : exec i s = .next (s.begin2.withRead s.begin2.hl fun x u =>
      (({ u with f := fl x u.f } : State).write8 u.hl (op x u.f)).advance 2)) :
    ∃ w x t, exec i s = .next t ∧ ReadsSecondByte s w ∧ t.f = fl x s.f ∧ t.pc = s.pc + 2 ∧ t.clock = s.clock + 16 ∧
      BusLog s t [.tick 4, .read (s.pc + 1) w, .tick 4, .read s.hl x, .tick 4, .write s.hl (op x s.f), .tick 4] ∧
      s.Holds (s.clock + 8) s.hl x ∧ Stores s t s.hl (op x s.f) ∧ t.sp = s.sp ∧ Frame s t [] [s.hl] := by
  have hu : (s.begin2.read8 s.hl).2.f = s.f ∧ (s.begin2.read8 s.hl).2.hl = s.hl := by simp
  have hread := ((Effect.begin2 s (except := []) (stored := [s.hl])).read s.hl).withF (fl (s.begin2.peek s.hl) s.f)
  have h := (hread.write s.hl (op (s.begin2.peek s.hl) s.f) (List.mem_singleton_self _)).advance 2
  rw [begin2_hl, State.withRead, hu.1, hu.2] at hx
  exact ⟨_, _, _, hx, readsSecondByte_tick s, by simp, by simp, h.clock, h.log,
    (Effect.begin2 s (except := [])).holds s.hl, (hread.settles_write s.hl _).stores, by simp, h.frame⟩

/-- A register is changed after `CBFetch` and no flag is (R249, R251). -/
theorem changeReg_completes {r : Reg8} (op : Byte → Byte)
    (hx : exec i s = .next ((s.begin2.setReg r (op (s.begin2.reg r))).advance 2)) :
    ∃ t, exec i s = .next t ∧ SecondByteCycle s t ∧ t.reg r = op (s.reg r) ∧ t.f = s.f ∧ t.sp = s.sp ∧ Frame s t [r] [] := by
  have h : Effect s _ _ [r] [] := ((Effect.begin2 s).setReg r (op (s.begin2.reg r)) (List.mem_singleton_self r)).advance 2
  exact ⟨_, hx, ⟨by simp, h.clock, _, h.log, readsSecondByte_tick s⟩, by simp, by simp, by simp, h.frame⟩

/-- The byte at HL is changed after `CBFetch` and no flag is (R250, R252). -/
theorem changeMem_completes (op : Byte → Byte)
    (hx : exec i s = .next (s.begin2.withRead s.begin2.hl fun x u => (u.write8 u.hl (op x)).advance 2)) :
    ∃ w x t, exec i s = .next t ∧ ReadsSecondByte s w ∧ t.pc = s.pc + 2 ∧ t.clock = s.clock + 16 ∧
      BusLog s t [.tick 4, .read (s.pc + 1) w, .tick 4, .read s.hl x, .tick 4, .write s.hl (op x), .tick 4] ∧
      s.Holds (s.clock + 8) s.hl x ∧ Stores s t s.hl (op x) ∧ t.f = s.f ∧ t.sp = s.sp ∧ Frame s t [] [s.hl] := by
  obtain ⟨w, x, t, ht, hw, hf, hpc, hclock, hlog, hholds, hstores, hrest⟩ :=
    updatePrefixedMem_completes (fun x _ => op x) (fun _ f => f) hx
  exact ⟨w, x, t, ht, hw, hpc, hclock, hlog, hholds, hstores, hf, hrest⟩

end

/-! ## Rotates and shifts (rules R231 to R246) -/

/-- The two forms of one operation on a byte and the carry, by the number it gives and the bit it moves out. -/
theorem shiftForms_of_op {reg : Reg8 → Instr} {mem : Instr} {num : Nat → Nat → Nat} {out : Byte → Bool}
    (op : Byte → Bool → Byte × Bool) (hreg : ∀ r s, exec (reg r) s = .next (s.begin2.shiftReg op r))
    (hmem : ∀ s, exec mem s = .next (s.begin2.shiftHl op))
    (hnum : ∀ x c, (op x c).1.toNat = num x.toNat (b2i c)) (hout : ∀ x c, (op x c).2 = out x) :
    ShiftForms reg mem num out := by
  intro s
  constructor
  · intro r
    have h : Effect s _ _ [r] [] := (((Effect.begin2 s).setReg r (op (s.begin2.reg r) (flagC s.begin2.f)).1
      (List.mem_singleton_self r)).setF (shiftFlags (op (s.begin2.reg r) (flagC s.begin2.f)))).advance 2
    exact ⟨_, hreg r s, ⟨by simp [State.shiftReg], h.clock, _, h.log, readsSecondByte_tick s⟩,
      by simp [State.shiftReg, hnum], flagsAre_of_masked rfl (by simp [State.shiftReg, hout]),
      by simp [State.shiftReg], h.frame⟩
  · obtain ⟨w, x, t, ht, hw, hf, hrest⟩ := updatePrefixedMem_completes (fun x f => (op x (flagC f)).1)
      (fun x f => shiftFlags (op x (flagC f)) &&& 0xF0) (hmem s)
    exact ⟨w, x, _, t, ht, hw, hnum _ _, flagsAre_of_masked hf (by simp [hout]), hrest⟩

/-- Settles O48: the four rotates, by their numbers. -/
theorem prefixedRotates : Obligations.PrefixedRotates :=
  ⟨shiftForms_of_op (fun x _ => rlc8 x) (fun _ _ => rfl) (fun _ => rfl) (fun x c => by simp [shift_table x c]) fun _ _ => rfl,
    shiftForms_of_op (fun x _ => rrc8 x) (fun _ _ => rfl) (fun _ => rfl) (fun x c => by simp [shift_table x c]) fun _ _ => rfl,
    shiftForms_of_op rl8 (fun _ _ => rfl) (fun _ => rfl) (fun x c => by simp [shift_table x c]) fun _ _ => rfl,
    shiftForms_of_op rr8 (fun _ _ => rfl) (fun _ => rfl) (fun x c => by simp [shift_table x c]) fun _ _ => rfl⟩

/-- Settles O49: the four shifts, by their numbers. -/
theorem prefixedShifts : Obligations.PrefixedShifts :=
  ⟨shiftForms_of_op (fun x _ => sla8 x) (fun _ _ => rfl) (fun _ => rfl) (fun x c => by simp [shift_table x c]) fun _ _ => rfl,
    shiftForms_of_op (fun x _ => sra8 x) (fun _ _ => rfl) (fun _ => rfl) (fun x c => by simp [shift_table x c]) fun _ _ => rfl,
    shiftForms_of_op (fun x _ => swap8 x) (fun _ _ => rfl) (fun _ => rfl) (fun x c => by simp [shift_table x c]) fun _ _ => rfl,
    shiftForms_of_op (fun x _ => srl8 x) (fun _ _ => rfl) (fun _ => rfl) (fun x c => by simp [shift_table x c]) fun _ _ => rfl⟩

/-! ## Bit test, reset and set (rules R247 to R252) -/

/-- Settles O50: one write of F, from a register and from the byte at HL. -/
theorem bitTest : Obligations.BitTest := by
  intro s n r
  constructor
  · have h : Effect s _ _ [] [] := ((Effect.begin2 s).setF (bitFlags (s.begin2.reg r) n s.begin2.f)).advance 2
    exact ⟨_, rfl, ⟨by simp, h.clock, _, h.log, readsSecondByte_tick s⟩, flagsAre_of_masked rfl (by simp), by simp, h.frame⟩
  · have hopen : Effect s _ _ [] [] := .begin2 s
    have h := ((hopen.read s.hl).setF (bitFlags (s.begin2.peek s.hl) n (s.begin2.read8 s.hl).2.f)).advance 2
    have hx : exec (.bitBHl n) s = .next (s.begin2.withRead s.begin2.hl fun x u => (u.setF (bitFlags x n u.f)).advance 2) := rfl
    rw [begin2_hl] at hx
    exact ⟨_, _, _, hx, readsSecondByte_tick s, flagsAre_of_masked rfl (by simp), by simp, h.clock, h.log,
      hopen.holds s.hl, by simp, h.frame⟩

/-- Settles O51: the mask clears or sets its one bit, in a register and in the byte at HL. -/
theorem bitResetAndSet : Obligations.BitResetAndSet := by
  intro s n r
  refine ⟨?_, ?_, ?_, ?_⟩
  · obtain ⟨t, ht, hcycle, hr, hrest⟩ := changeReg_completes (i := .resBR n r) (s := s) (· &&& ~~~bitMask n.toNat) rfl
    exact ⟨t, ht, hcycle, hr ▸ res_bit _ n.toNat, hrest⟩
  · obtain ⟨t, ht, hcycle, hr, hrest⟩ := changeReg_completes (i := .setBR n r) (s := s) (· ||| bitMask n.toNat) rfl
    exact ⟨t, ht, hcycle, hr ▸ set_bit _ n.toNat, hrest⟩
  · obtain ⟨w, x, t, ht, hw, hrest⟩ := changeMem_completes (i := .resBHl n) (s := s) (· &&& ~~~bitMask n.toNat) rfl
    exact ⟨w, x, _, t, ht, hw, res_bit x n.toNat, hrest⟩
  · obtain ⟨w, x, t, ht, hw, hrest⟩ := changeMem_completes (i := .setBHl n) (s := s) (· ||| bitMask n.toNat) rfl
    exact ⟨w, x, _, t, ht, hw, set_bit x n.toNat, hrest⟩

end Sys2Proof.Machine

/-! # Proofs: control transfer (43_control_transfer.md) -/

namespace Sys2Proof.Machine

/-! ## The stack (rules R9, R26) -/

section
variable (s : State) (v : Word)
@[simp] theorem push16_f : (s.push16 v).f = s.f := by simp [push16_eq]
@[simp] theorem push16_sp : (s.push16 v).sp = s.sp - 2 := by simp [push16_eq]
@[simp] theorem pop16_f : s.pop16.2.f = s.f := by simp [pop16_snd, popMiddle_eq]
@[simp] theorem pop16_sp : s.pop16.2.sp = s.sp + 2 := by simp [pop16_snd]
end

namespace Effect
variable {s t : State} {evs : List BusEvent} {except : List Reg8} {stored : List Word}

theorem push (v : Word) (hstored : ∀ a ∈ [s.sp - 1, s.sp - 2], a ∈ stored) (hsp : t.sp = s.sp)
    (h : Effect s t evs except stored) : Effect s (t.push16 v) (evs ++ pushEvents s v) except stored := by
  have hhigh := (h.setSp (s.sp - 1)).write (s.sp - 1) (hiByte v) (hstored _ (by simp))
  have hlow := (hhigh.setSp (s.sp - 2)).write (s.sp - 2) (loByte v) (hstored _ (by simp))
  rw [List.append_assoc] at hlow
  rw [push16_eq, hsp]
  exact hlow

/-- The write of the low byte leaves the high byte alone, since SP - 1 is not SP - 2. -/
theorem pushed (v : Word) (hsp : t.sp = s.sp) (h : Effect s t evs except stored) : Pushed s (t.push16 v) v := by
  have hhigh : Settles s (((t.setSp (s.sp - 1)).write8 (s.sp - 1) (hiByte v)).setSp (s.sp - 2)) (s.sp - 1) (hiByte v) :=
    (h.setSp (s.sp - 1)).settles_write (s.sp - 1) (hiByte v)
  have hkept := settles_busWrite_other _ _ _ (loByte v) (word_sub_one_ne_sub_two s.sp) hhigh
  have hlow := settles_busWrite (s.sp - 2) (loByte v) hhigh.1
  refine ⟨by rw [push16_sp, hsp], ?_, ?_⟩ <;> rw [push16_eq, hsp]
  · exact (settles_tick _ _ 4 hkept).stores
  · exact (settles_tick _ _ 4 hlow).stores

/-- The state in which a pop reads its second byte, the first read having been of SP. -/
theorem popMiddle (hsp : t.sp = s.sp) (h : Effect s t evs except stored) :
    Effect s t.popMiddle (evs ++ [BusEvent.read s.sp (t.peek s.sp), BusEvent.tick 4]) except stored := by
  rw [popMiddle_eq, hsp]
  exact (h.read s.sp).setSp (s.sp + 1)

theorem pop (hsp : t.sp = s.sp) (h : Effect s t evs except stored) :
    Effect s t.pop16.2 (evs ++ popEvents s (t.peek s.sp) (t.popMiddle.peek (s.sp + 1)) []) except stored := by
  have hhigh := ((h.popMiddle hsp).read (s.sp + 1)).setSp (s.sp + 2)
  rw [List.append_assoc] at hhigh
  rw [pop16_snd, hsp]
  exact hhigh

theorem popped (hsp : t.sp = s.sp) (h : Effect s t evs except []) :
    Popped s t.pop16.2 (totalTicks evs) (t.peek s.sp) (t.popMiddle.peek (s.sp + 1)) := by
  have hhigh := (h.popMiddle hsp).holds (s.sp + 1)
  rw [totalTicks_append] at hhigh
  exact ⟨by rw [pop16_sp, hsp], h.holds s.sp, hhigh⟩

end Effect

/-! ## Conditions (rule R38) -/

theorem condSays_iff (cc : Cond) (s : State) : CondSays cc s ↔ condHolds cc s.f = true := by
  cases cc <;> simp [CondSays, condHolds]

/-- A conditional form, which tests F when its opening has left it alone, is the taken form or the other one. -/
theorem exec_conditional {s u taken other : State} {i : Instr} {cc : Cond} (hf : u.f = s.f)
    (hx : exec i s = if condHolds cc u.f then .next taken else .next other) :
    (CondSays cc s ∧ exec i s = .next taken) ∨ (¬ CondSays cc s ∧ exec i s = .next other) := by
  rw [hx, hf, condSays_iff]
  by_cases hc : condHolds cc s.f = true
  · exact .inl ⟨hc, if_pos hc⟩
  · exact .inr ⟨hc, if_neg hc⟩

/-! ## What the openings leave, for the operands of a transfer (rules R9, R270) -/

section
variable (s : State)
theorem begin1_sp : s.begin1.sp = s.sp := by simp
theorem begin1_cycle_sp : s.begin1.cycle.sp = s.sp := by simp
theorem begin1_cycle_f : s.begin1.cycle.f = s.f := by simp
theorem begin1_cycle_pc : s.begin1.cycle.pc = s.pc := by simp
theorem begin2_f : s.begin2.f = s.f := by simp
theorem begin3_f : s.begin3.f = s.f := by simp
theorem begin3_cycle_sp : s.begin3.cycle.sp = s.sp := by simp
theorem begin3_cycle_pc : s.begin3.cycle.pc = s.pc := by simp
theorem begin3_pc : s.begin3.pc = s.pc := by simp
end

/-- The target of a relative jump is counted from the next instruction (R270). -/
theorem relTarget_eq {s u : State} (e : Byte) (hpc : u.pc = s.pc) :
    u.relTarget e = s.pc + 2 + BitVec.ofInt 16 e.toInt := by
  rw [State.relTarget, hpc, sext8_eq]

/-! ## Jumps (rules R271 to R275) -/

/-- Settles O53: the opening, the internal cycle where there is one, then PC. -/
theorem unconditionalJumps : Obligations.UnconditionalJumps := by
  intro s a e
  refine ⟨?_, ?_, ?_⟩
  · have h : Effect s _ _ [] [] := ((Effect.begin3 s).tick 4).setPc a
    exact ⟨_, _, _, rfl, readsBothBytes_begin2 s, rfl, h.clock, h.log, by simp, by simp, h.frame⟩
  · have h : Effect s _ _ [] [] := (Effect.begin1 s).setPc s.begin1.hl
    exact ⟨_, rfl, begin1_hl s, h.clock, h.log, by simp, by simp, h.frame⟩
  · have h : Effect s _ _ [] [] := ((Effect.begin2 s).tick 4).setPc (s.begin2.cycle.relTarget e)
    exact ⟨_, _, rfl, readsSecondByte_tick s, relTarget_eq e (by simp), h.clock, h.log, by simp, by simp, h.frame⟩

/-- Settles O54: after the opening either the transfer or the step to the next instruction. -/
theorem conditionalJumps : Obligations.ConditionalJumps := by
  intro s cc a e
  constructor
  · have hopen : Effect s _ _ [] [] := .begin3 s
    obtain ⟨hc, hx⟩ | ⟨hc, hx⟩ := exec_conditional (i := .jpCcA16 cc a) (begin3_f s) rfl
    · have h := (hopen.tick 4).setPc a
      exact ⟨_, _, _, hx, readsBothBytes_begin2 s, by simp, by simp, h.frame, fun _ => ⟨rfl, h.clock, h.log⟩,
        fun hn => absurd hc hn⟩
    · have h := hopen.advance 3
      exact ⟨_, _, _, hx, readsBothBytes_begin2 s, by simp, by simp, h.frame, fun hy => absurd hy hc,
        fun _ => ⟨by simp, h.clock, h.log⟩⟩
  · have hopen : Effect s _ _ [] [] := .begin2 s
    obtain ⟨hc, hx⟩ | ⟨hc, hx⟩ := exec_conditional (i := .jrCcE8 cc e) (begin2_f s) rfl
    · have h := (hopen.tick 4).setPc (s.begin2.relTarget e)
      exact ⟨_, _, hx, readsSecondByte_tick s, by simp, by simp, h.frame,
        fun _ => ⟨relTarget_eq e (by simp), h.clock, h.log⟩, fun hn => absurd hc hn⟩
    · have h := hopen.advance 2
      exact ⟨_, _, hx, readsSecondByte_tick s, by simp, by simp, h.frame, fun hy => absurd hy hc,
        fun _ => ⟨by simp, h.clock, h.log⟩⟩

/-! ## Calls and restarts (rules R276, R277, R281) -/

/-- Settles O55: the opening and the internal cycle leave SP and PC, so the push is that of the next instruction's address. -/
theorem callsAndRestarts : Obligations.CallsAndRestarts := by
  intro s cc a n
  have hopen : Effect s s.begin3.cycle _ [] [s.sp - 1, s.sp - 2] := (Effect.begin3 s).tick 4
  have hcall := (hopen.push (s.pc + 3) (fun _ h => h) (begin3_cycle_sp s)).setPc a
  have hpushed := hopen.pushed (s.pc + 3) (begin3_cycle_sp s)
  refine ⟨?_, ?_, ?_⟩
  · have hx : exec (.callA16 a) s = .next ((s.begin3.cycle.push16 (s.pc + 3)).setPc a) := by
      rw [← begin3_cycle_pc]
      rfl
    exact ⟨_, _, _, hx, readsBothBytes_begin2 s, rfl, hpushed, hcall.clock, hcall.log, by simp, hcall.frame⟩
  · obtain ⟨hc, hx⟩ | ⟨hc, hx⟩ := exec_conditional (i := .callCcA16 cc a) (begin3_f s) rfl
    · rw [begin3_pc] at hx
      exact ⟨_, _, _, hx, readsBothBytes_begin2 s, by simp,
        fun _ => ⟨rfl, hpushed, hcall.clock, hcall.log, hcall.frame⟩, fun hn => absurd hc hn⟩
    · have h : Effect s _ _ [] [] := (Effect.begin3 s).advance 3
      exact ⟨_, _, _, hx, readsBothBytes_begin2 s, by simp, fun hy => absurd hy hc,
        fun _ => ⟨by simp, by simp, h.clock, h.log, h.frame⟩⟩
  · have hx : exec (.rst n) s =
        .next ((s.begin1.cycle.push16 (s.pc + 1)).setPc (BitVec.ofNat 16 (8 * n.toNat))) := by
      rw [← begin1_cycle_pc]
      rfl
    have hopen : Effect s s.begin1.cycle _ [] [s.sp - 1, s.sp - 2] := (Effect.begin1 s).tick 4
    have h := (hopen.push (s.pc + 1) (fun _ h => h) (begin1_cycle_sp s)).setPc (BitVec.ofNat 16 (8 * n.toNat))
    have hn : 8 * n.toNat < 2 ^ 16 := by omega
    exact ⟨_, hx, Nat.mod_eq_of_lt hn, hopen.pushed (s.pc + 1) (begin1_cycle_sp s), h.clock, h.log, by simp, h.frame⟩

/-! ## Returns (rules R278 to R280, R353) -/

section
variable {s t : State} {evs : List BusEvent}

/-- The pop, the internal cycle and the transfer that end every return. -/
def State.popPc (s : State) : State := s.pop16.2.cycle.setPc s.pop16.1

@[simp] theorem popPc_f (s : State) : s.popPc.f = s.f := by simp [State.popPc]

theorem popPc_pc (hsp : t.sp = s.sp) : t.popPc.pc = mkWord (t.popMiddle.peek (s.sp + 1)) (t.peek s.sp) :=
  hsp ▸ pop16_fst t

theorem Effect.popPc (hsp : t.sp = s.sp) (h : Effect s t evs [] []) :
    Effect s t.popPc (evs ++ popEvents s (t.peek s.sp) (t.popMiddle.peek (s.sp + 1)) [.tick 4]) [] [] := by
  have hreturn := ((h.pop hsp).tick 4).setPc t.pop16.1
  rw [List.append_assoc] at hreturn
  exact hreturn

theorem Effect.popped_popPc (hsp : t.sp = s.sp) (h : Effect s t evs [] []) :
    Popped s t.popPc (totalTicks evs) (t.peek s.sp) (t.popMiddle.peek (s.sp + 1)) := by
  obtain ⟨hsp', hbytes⟩ := h.popped hsp
  exact ⟨by rw [← hsp']; simp [State.popPc], hbytes⟩

end

/-- RETI ends as the other returns do, then sets `IME_next`, and `IME` when `RETI_IMMEDIATE` (R280). -/
theorem returnFromInterrupt_eq (s : State) : s.returnFromInterrupt =
    (s.popPc.setImeNext true).setIme (s.popPc.config.retiImmediate || s.popPc.ime) := rfl

/-- The two latches that RETI sets are all it adds to a return: it restores nothing else (R353). -/
theorem Effect.enabled {s t u : State} {evs : List BusEvent} {n : Nat} {x y : Byte}
    (hu : u = (t.setImeNext true).setIme (t.config.retiImmediate || t.ime)) (hpopped : Popped s t n x y) (hf : t.f = s.f)
    (h : Effect s t evs [] []) :
    Popped s u n x y ∧ u.clock = s.clock + totalTicks evs ∧ BusLog s u evs ∧ u.imeNext = true ∧
      u.ime = (s.config.retiImmediate || s.ime) ∧ u.f = s.f ∧ u.running = s.running ∧ KeepsDebug s u ∧
      KeepsRegs s u [] ∧ KeepsHolds s u ∧ KeepsMemory s u [] := by
  obtain ⟨hregs, ⟨hrunning, hime, -, hdebug⟩, hholds, hmemory⟩ := h.frame
  have ⟨_, _, _, hconfig⟩ := hdebug
  rw [hconfig, hime] at hu
  subst hu
  exact ⟨hpopped, h.clock, h.log, rfl, rfl, hf, hrunning, hdebug, hregs, hholds, hmemory⟩

/-- Settles O56: the pop is that of the stack before, since the cycles before it leave SP; RETI adds only the two latches. -/
theorem returns : Obligations.Returns := by
  intro s cc
  have hopen : Effect s s.begin1 _ [] [] := .begin1 s
  have hreturn := hopen.popPc (begin1_sp s)
  have hpopped := hopen.popped_popPc (begin1_sp s)
  have hpc := popPc_pc (begin1_sp s)
  refine ⟨?_, ?_, ?_⟩
  · have hx : exec .ret s = .next s.begin1.popPc := rfl
    exact ⟨_, _, _, hx, hpc, hpopped, hreturn.clock, hreturn.log, by simp, hreturn.frame⟩
  · have htested : Effect s s.begin1.cycle _ [] [] := hopen.tick 4
    have hsp := begin1_cycle_sp s
    obtain ⟨hc, hx⟩ | ⟨hc, hx⟩ :=
      exec_conditional (i := .retCc cc) (taken := s.begin1.cycle.popPc) (begin1_cycle_f s) rfl
    · have h := htested.popPc hsp
      exact ⟨_, _, _, hx, by simp, h.frame,
        fun _ => ⟨popPc_pc hsp, htested.popped_popPc hsp, h.clock, h.log⟩, fun hn => absurd hc hn⟩
    · have h := htested.advance 1
      exact ⟨0, 0, _, hx, by simp, h.frame, fun hy => absurd hy hc, fun _ => ⟨by simp, by simp, h.clock, h.log⟩⟩
  · have hx : exec .reti s = .next s.begin1.returnFromInterrupt := rfl
    exact ⟨_, _, _, hx, hpc, hreturn.enabled (returnFromInterrupt_eq s.begin1) hpopped (by simp)⟩

end Sys2Proof.Machine

/-! # Proofs: the stack, 16-bit arithmetic, CPU control and PREFIX CB (44_misc_control.md) -/

namespace Sys2Proof.Machine

/-! ## What the shared operations leave, for the operands and PC of these rules (rules R9, R25, R37) -/

section
variable (s : State) (v : Word) (n : Nat)
@[simp] theorem tick_pair16 (p : Pair16) : (s.tick n).pair16 p = s.pair16 p := by cases p <;> simp [State.pair16]
@[simp] theorem tick_pairStk (p : PairStk) : (s.tick n).pairStk p = s.pairStk p := by
  cases p <;> simp [State.pairStk, State.af]
@[simp] theorem push16_pc : (s.push16 v).pc = s.pc := by simp [push16_eq]
@[simp] theorem push16_config : (s.push16 v).config = s.config := by simp [push16_eq]
@[simp] theorem pop16_pc : s.pop16.2.pc = s.pc := by simp [pop16_snd, popMiddle_eq]
theorem begin1_cycle_pairStk (p : PairStk) : s.begin1.cycle.pairStk p = s.pairStk p := by simp
end

/-! ## No-op and the undefined opcodes (rules R99, R301, R312) -/

/-- An undefined opcode skips one byte, whichever it is (R312). -/
theorem exec_of_isUndefined {i : Instr} (hi : isUndefined i = true) (s : State) : exec i s = .next s.skipUndefined := by
  cases i with
  | undefD3 | undefDB | undefDD | undefE3 | undefE4 | undefEB | undefEC | undefED | undefF4 | undefFC | undefFD => rfl
  | _ => nomatch hi

theorem wellFormed_of_isUndefined {i : Instr} (hi : isUndefined i = true) : i.wellFormed = true := by
  cases i with
  | undefD3 | undefDB | undefDD | undefE3 | undefE4 | undefEB | undefEC | undefED | undefF4 | undefFC | undefFD => rfl
  | _ => nomatch hi

/-- Settles O57: what is common to the eleven is that each is undefined and encodes as its own byte. -/
theorem nopAndUndefinedOpcodes : Obligations.NopAndUndefinedOpcodes := by
  intro s
  constructor
  · have h : Effect s _ _ [] [] := (Effect.begin1 s).advance 1
    exact ⟨rfl, _, rfl, ⟨by simp, h.clock, h.log⟩, by simp, by simp, h.frame⟩
  · intro i op hmem
    obtain ⟨hi, henc⟩ : isUndefined i = true ∧ encode i = [op] :=
      (by decide : ∀ x ∈ (_ : List (Instr × Byte)), isUndefined x.1 = true ∧ encode x.1 = [x.2]) (i, op) hmem
    have hdecode (rest : List Byte) : decode (op :: rest) = .ok (i, rest) := by
      have hrt := decode_encode i rest (wellFormed_of_isUndefined hi)
      rwa [henc] at hrt
    have h : Effect s s.skipUndefined _ [] [] := ((Effect.refl s).tick s.config.undefTicks).advance 1
    exact ⟨henc, hdecode, _, exec_of_isUndefined hi s, by simp [State.skipUndefined], h.clock, h.log,
      by simp [State.skipUndefined], by simp [State.skipUndefined], h.frame⟩

/-! ## Stack (rules R302, R303, R314) -/

/-- A pop into two general registers: the low byte, read first, comes to stand in `lo`, the high byte in `hi`. -/
theorem popPair_completes {s : State} {i : Instr} {hi lo : Reg8} (hne : hi ≠ lo)
    (hx : exec i s = .next (((s.begin1.pop16.2.setReg hi (hiByte s.begin1.pop16.1)).setReg lo
      (loByte s.begin1.pop16.1)).advance 1)) :
    ∃ x y t, exec i s = .next t ∧ t.reg lo = x ∧ t.reg hi = y ∧ Popped s t 4 x y ∧ t.pc = s.pc + 1 ∧
      t.clock = s.clock + 12 ∧ BusLog s t (.tick 4 :: popEvents s x y []) ∧ t.f = s.f ∧ Frame s t [hi, lo] [] := by
  have hopen : Effect s s.begin1 _ [hi, lo] [] := .begin1 s
  have h := (((hopen.pop (begin1_sp s)).setReg hi (hiByte s.begin1.pop16.1) (by simp)).setReg lo
    (loByte s.begin1.pop16.1) (by simp)).advance 1
  obtain ⟨-, hbytes⟩ := hopen.popped (begin1_sp s)
  exact ⟨_, _, _, hx, by simp [pop16_fst], by simp [pop16_fst, setReg_reg_other _ _ _ _ hne], ⟨by simp, hbytes⟩,
    by simp, h.clock, h.log, by simp, h.frame⟩

/-- Settles O58: a push after the opening and an internal cycle, and pops after the opening, of which POP AF masks F. -/
theorem pushAndPop : Obligations.PushAndPop := by
  intro s p
  refine ⟨?_, popPair_completes (hi := .b) (lo := .c) (by decide) rfl, popPair_completes (hi := .d) (lo := .e) (by decide) rfl,
    popPair_completes (hi := .h) (lo := .l) (by decide) rfl, ?_⟩
  · have hx : exec (.pushRr p) s = .next ((s.begin1.cycle.push16 (s.pairStk p)).advance 1) := by
      rw [← begin1_cycle_pairStk]
      rfl
    have hopen : Effect s s.begin1.cycle _ [] [s.sp - 1, s.sp - 2] := (Effect.begin1 s).tick 4
    have h := (hopen.push (s.pairStk p) (fun _ ha => ha) (begin1_cycle_sp s)).advance 1
    exact ⟨_, hx, hopen.pushed (s.pairStk p) (begin1_cycle_sp s), by simp, h.clock, h.log, by simp, h.frame⟩
  · have hopen : Effect s s.begin1 _ [.a] [] := .begin1 s
    have h := (((hopen.pop (begin1_sp s)).setReg .a (hiByte s.begin1.pop16.1) (by decide)).setF
      (loByte s.begin1.pop16.1)).advance 1
    exact ⟨_, _, _, rfl, by simp [setAf_eq, pop16_fst], by simp [setAf_eq, pop16_fst], hopen.popped (begin1_sp s),
      by simp [setAf_eq], h.clock, h.log, h.frame⟩

/-! ## 16-bit arithmetic (rules R304 to R306) -/

/-- A pair becomes `move` of itself, in the opcode's machine cycle and an internal one, and no flag is written. -/
theorem movePair_completes {s : State} {i : Instr} (p : Pair16) (move : Word → Word)
    (hx : exec i s = .next ((s.begin1.setPair16 p (move (s.begin1.pair16 p))).cycle.advance 1)) :
    ∃ t, exec i s = .next t ∧ InternalCycle s t ∧ t.pair16 p = move (s.pair16 p) ∧ (p ≠ .sp → t.sp = s.sp) ∧
      t.f = s.f ∧ Frame s t (pairRegs p) [] := by
  have h : Effect s _ _ (pairRegs p) [] :=
    (((Effect.begin1 s).setPair16 p (move (s.begin1.pair16 p)) fun _ hr => hr).tick 4).advance 1
  exact ⟨_, hx, ⟨by simp, h.clock, h.log⟩, by simp, fun hp => by simp [setPair16_sp_of_ne _ p _ hp], by simp, h.frame⟩

theorem word_sub_one_toNat (x : Word) : ((x - 1).toNat : Int) = ((x.toNat : Int) - 1) % 65536 := by
  bv_omega

/-- Settles O59: the sum and flags of `addWord`, and the two moves of a pair by one. -/
theorem wordArithmetic : Obligations.WordArithmetic := by
  intro s p
  refine ⟨?_, ?_, ?_⟩
  · have h : Effect s _ _ [.h, .l] [] :=
      ((((Effect.begin1 s).setHl (addWord s.begin1.hl (s.begin1.pair16 p) s.begin1.f).1 (by decide) (by decide)).setF
        (addWord s.begin1.hl (s.begin1.pair16 p) s.begin1.f).2).tick 4).advance 1
    exact ⟨_, rfl, ⟨by simp, h.clock, h.log⟩, by simp, flagsAre_of_pack (by simp), by simp, h.frame⟩
  · obtain ⟨t, ht, hcycle, hpair, hrest⟩ := movePair_completes (i := .incRr p) (s := s) p (· + 1) rfl
    exact ⟨t, ht, hcycle, hpair ▸ BitVec.toNat_add _ _, hrest⟩
  · obtain ⟨t, ht, hcycle, hpair, hrest⟩ := movePair_completes (i := .decRr p) (s := s) p (· - 1) rfl
    exact ⟨t, ht, hcycle, hpair ▸ word_sub_one_toNat _, hrest⟩

/-! ## Interrupt enable, halt, stop (rules R308 to R311) -/

/-- Settles O60: the effect of the opcode's machine cycle, and after it the write of a latch or a run flag, which is no part of
what that effect says is kept. -/
theorem enableHaltStop : Obligations.EnableHaltStop := by
  intro s
  have h : Effect s s.begin1 _ [] [] := .begin1 s
  obtain ⟨hregs, ⟨hrunning, hime, himeNext, hdebug⟩, hholds, hmemory⟩ := h.frame
  refine ⟨?_, ?_, ?_, ?_⟩
  · exact ⟨_, rfl, ⟨by simp, h.clock, h.log⟩, rfl, by simp, by simp, by simp, hrunning, hdebug, hregs, hholds, hmemory⟩
  · exact ⟨_, rfl, ⟨by simp, h.clock, h.log⟩, rfl, hime, by simp, by simp, hrunning, hdebug, hregs, hholds, hmemory⟩
  · exact ⟨_, rfl, ⟨by simp, h.clock, h.log⟩, rfl, hime, himeNext, by simp, by simp, hdebug, hregs, hholds, hmemory⟩
  · exact ⟨_, rfl, by simp, h.clock, h.log, rfl, hrunning, hime, himeNext, by simp, by simp, hdebug, hregs, hmemory,
      fun hidle => (hholds hidle).2⟩

/-! ## PREFIX CB (rules R100, R313) -/

theorem not_transfers_of_isSecondary {i : Instr} (hi : isSecondary i = true) (f : Byte) : transfers i f = false := by
  cases i with
  | jpA16 | jpHl | jrE8 | callA16 | ret | reti | rst | jpCcA16 | jrCcE8 | callCcA16 | retCc => nomatch hi
  | _ => rfl

theorem exec_answers_next (i : Instr) (s : State) : ∃ t, exec i s = .next t := by
  obtain ⟨j, hj⟩ := resolvePrefix_some i
  rw [exec_of_resolvePrefix s hj]
  cases exec_completes j s (resolvePrefix_spec hj).1 with
  | advance _ hx => exact ⟨_, hx⟩
  | transfer _ _ _ hx => exact ⟨_, hx⟩

/-- Settles O52: the entry's encoding is the two bytes, and no secondary instruction transfers control. -/
theorem prefixPerformsTheSecondaryEntry : Obligations.PrefixPerformsTheSecondaryEntry := by
  intro s op2
  obtain ⟨i, hentry, hwf, hstop, henc⟩ := exists_secondaryEntry_encode op2
  obtain ⟨j, hj, hsec⟩ := secondaryEntry_isSecondary op2
  obtain rfl : i = j := Option.some.inj (hentry.symm.trans hj)
  obtain ⟨t, ht⟩ := exec_answers_next (.prefixCb op2) s
  have hpc := (pcAndSpWriters (.prefixCb op2) i s t hj ht).1 (not_transfers_of_isSecondary hsec s.f)
  rw [if_neg hstop, henc] at hpc
  exact ⟨i, t, hj, hwf, ht, exec_prefixCb op2 s i hj ▸ ht, hpc⟩

end Sys2Proof.Machine

/-! # Proofs: the instruction after EI (rules R309, R343, R345, R350) -/

namespace Sys2Proof.Machine

/-! ## The fetch and the parts of the step before it (rules R343, R350 to R352) -/

/-- The bytes the fetch reads are those memory holds when the step begins, where the environment spares the two operand bytes. -/
theorem fetchedBytes_of_spares {s : State} (hsecond : s.EnvSpares (s.clock + 4) (s.pc + 1))
    (hthird : s.EnvSpares (s.clock + 8) (s.pc + 2)) :
    s.fetchedBytes = (s.peek s.pc, s.peek (s.pc + 1), s.peek (s.pc + 2)) := by
  obtain ⟨h1, h2⟩ := readsBothBytes_begin2 s.opcodeRead
  exact Prod.ext rfl (Prod.ext (h1 hsecond) (h2 hthird))

/-- The fetch at PC performs the instruction that decodes there (R352). -/
theorem instruction_of_atPc {s : State} {i : Instr} (h : s.AtPc i) : s.instruction = exec i s.opcodeRead := by
  obtain ⟨hsecond, hthird, rest, hdecode⟩ := h
  obtain ⟨op, tail, hbytes, -, -, hentry⟩ := decode_ok hdecode
  cases hbytes
  obtain ⟨j, hj, hi⟩ := Option.bind_eq_some_iff.mp hentry
  have hfetched : s.fetchedEntry = some j := by
    rw [State.fetchedEntry, fetchedBytes_of_spares hsecond hthird]
    exact hj
  rw [State.instruction, hfetched]
  exact exec_of_resolvePrefix s.opcodeRead hi

theorem atBreakpoint_eq_false_iff (s : State) :
    s.atBreakpoint = false ↔ s.config.debugPresent = false ∨ s.pc ∉ s.execBp := by
  simp [State.atBreakpoint, or_iff_not_imp_left]

/-- A running core at an unmarked PC commits the latch and performs the instruction there (R350 to R352). -/
theorem afterController_of_atPc {s : State} {i : Instr} (hrun : s.running = true)
    (hbp : s.config.debugPresent = false ∨ s.pc ∉ s.execBp) (h : s.AtPc i) : s.afterController = exec i s.fetched := by
  have hunmarked : s.commit.breakpoint = (false, s.commit) :=
    breakpoint_of_unmarked ((atBreakpoint_eq_false_iff s).mpr hbp)
  have hcommit : s.commit.AtPc i := h
  rw [State.afterController, hrun, hunmarked]
  exact instruction_of_atPc hcommit

/-- A running core with IME = 0 makes no poll (R345). -/
theorem controller_of_no_poll {s : State} (hrun : s.running = true) (hime : s.ime = false) : s.controller = (false, s) := by
  simp [State.controller, hrun, hime]

/-- A core that may run and has IME = 0 performs the instruction at PC, whatever is pending (R343, R345). -/
theorem step_of_ready {s : State} {i : Instr} (hready : s.Ready) (hime : s.ime = false) (h : s.AtPc i) :
    step s = exec i s.fetched := by
  obtain ⟨hblocked, hstopped, hrun, hbp⟩ := hready
  rw [step_of_controller hblocked hstopped (controller_of_no_poll hrun hime), afterController_of_atPc hrun hbp h]

/-! ## The latch after the instruction, and the dispatch (rules R308, R348) -/

/-- IME = 1 survives every instruction but an undelayed DI (R30). -/
theorem exec_keeps_ime_set {i : Instr} {s t : State} (hx : exec i s = .next t) (hime : s.ime = true)
    (hi : i ≠ .di ∨ s.config.diDelayed = true) : t.ime = true := by
  by_cases hdi : i = .di
  · subst hdi
    have hdelayed : s.config.diDelayed = true := hi.resolve_left fun hne => hne rfl
    obtain ⟨⟨u, hu, -, -, hlatch, -⟩, -⟩ := enableHaltStop s
    obtain rfl := Host.Outcome.next.inj (hx.symm.trans hu)
    simpa [hime, hdelayed] using hlatch
  · by_cases hreti : i = .reti
    · subst hreti
      obtain ⟨-, -, x, y, u, hu, -, -, -, -, -, hlatch, -⟩ := returns s .z
      obtain rfl := Host.Outcome.next.inj (hx.symm.trans hu)
      simpa [hime] using hlatch
    · obtain ⟨-, -, -, -, hkeeps, -⟩ := controlStateWriters i s t hx
      exact (hkeeps hdi hreti).trans hime

@[simp] theorem takeInterrupt_pc (s : State) (i : Nat) (x : Byte) :
    (s.takeInterrupt i x).pc = s.config.intVectorBase + BitVec.ofNat 16 (8 * i) := by
  simp [State.takeInterrupt]

/-- Settles O17: the step makes no poll and commits IME = 1, which the instruction keeps; then the selected source is taken. -/
theorem enableTakesOneMoreInstruction : Obligations.EnableTakesOneMoreInstruction := by
  refine ⟨fun s hime => ?_, fun s i hready hime hnext hat => ?_⟩
  · obtain ⟨-, ⟨e, he, -, hlatch, hkept, -⟩, -⟩ := enableHaltStop s
    exact ⟨e, he, hkept.trans hime, hlatch⟩
  · obtain ⟨t, ht⟩ := exec_answers_next i s.fetched
    refine ⟨t, (step_of_ready hready hime hat).trans ht, ht, fun hi => ?_⟩
    have hset : t.ime = true := exec_keeps_ime_set ht hnext hi
    exact ⟨hset, fun n hblocked hstopped hsel => ⟨_, step_of_selects hblocked hstopped hset hsel, takeInterrupt_pc _ _ _⟩⟩

end Sys2Proof.Machine

/-! # Proofs: the step up to the instruction (60_exceptions.md) -/

namespace Sys2Proof.Machine

/-! ## The host's operations (rules R29, R362) -/

/-- Settles O5: each operation is the update of one field. -/
theorem hostJumpAndWakeStop : Obligations.HostJumpAndWakeStop :=
  ⟨fun _ n => ⟨BitVec.toNat_ofNat n 16, rfl⟩, fun _ => ⟨rfl, rfl⟩⟩

/-! ## No step is refused (rules R340, R363) -/

theorem instruction_answers_next (s : State) : ∃ t, s.instruction = .next t := by
  obtain ⟨i, hi⟩ := Option.isSome_iff_exists.mp (primaryEntry_isSome s.fetchedBytes.1 s.fetchedBytes.2.1 s.fetchedBytes.2.2)
  have hentry : s.fetchedEntry = some i := hi
  rw [State.instruction, hentry]
  exact exec_answers_next i s.opcodeRead

theorem afterController_answers_next (s : State) : ∃ t, s.afterController = .next t := by
  unfold State.afterController
  split
  · exact ⟨_, rfl⟩
  · split
    · exact ⟨_, rfl⟩
    · exact instruction_answers_next _

theorem step_answers_next (s : State) : ∃ t, step s = .next t := by
  unfold step stepOnce
  split
  · exact ⟨_, rfl⟩
  · split
    · exact ⟨_, rfl⟩
    · exact afterController_answers_next _

/-- Settles O13: a step can be refused at its table lookup alone, and every slot is filled. -/
theorem everyStepAnswersNext : Obligations.EveryStepAnswersNext := ⟨step_answers_next, exec_answers_next⟩

/-! ## The two reads of the poll (rule R345) -/

section
variable (s : State)
@[simp] theorem polled_f : s.polled.f = s.f := rfl
@[simp] theorem polled_pc : s.polled.pc = s.pc := rfl
@[simp] theorem polled_sp : s.polled.sp = s.sp := rfl
@[simp] theorem polled_clock : s.polled.clock = s.clock := rfl
@[simp] theorem polled_imeNext : s.polled.imeNext = s.imeNext := rfl
@[simp] theorem polled_trapped : s.polled.trapped = s.trapped := rfl
@[simp] theorem polled_trapResolved : s.polled.trapResolved = s.trapResolved := rfl
@[simp] theorem polled_execBp : s.polled.execBp = s.execBp := rfl
@[simp] theorem polled_config : s.polled.config = s.config := rfl
@[simp] theorem polled_peek (a : Word) : s.polled.peek a = s.peek a := by simp [State.polled]
@[simp] theorem polled_reg (r : Reg8) : s.polled.reg r = s.reg r := by simp [State.polled]
@[simp] theorem polled_history : s.polled.history =
    .read s.config.ifAddr (s.peek s.config.ifAddr) :: .read s.config.ieAddr (s.peek s.config.ieAddr) :: s.history := rfl
@[simp] theorem heldOver_polled : HeldOver s s.polled := by simp [State.polled]
@[simp] theorem evolves_polled (stored : List Word) : Evolves s s.polled stored := by simp [State.polled]
end

theorem Effect.polled (s : State) {except : List Reg8} {stored : List Word} :
    Effect s s.polled [.read s.config.ieAddr (s.peek s.config.ieAddr), .read s.config.ifAddr (s.peek s.config.ifAddr)]
      except stored :=
  ⟨rfl, rfl, fun r _ => polled_reg s r, .refl s, heldOver_polled s, evolves_polled s stored⟩

/-! ## The controller where it does not dispatch (rules R345, R347) -/

theorem controller_of_nonePending {s : State} (hpoll : s.ime = true ∨ s.running = false) (h : s.NonePending) :
    s.controller = (false, s.polled) := by
  have hpolls : (s.ime || !s.running) = true := by simpa using hpoll
  exact (if_pos hpolls).trans (poll_of_nonePending s h)

/-- With IME = 0 a pending enabled source only wakes the core (R347). -/
theorem controller_of_wake {s : State} (hrun : s.running = false) (hime : s.ime = false) (h : ¬ s.NonePending) :
    s.controller = (false, s.polled.setRunning true) := by
  obtain ⟨n, hn⟩ := Option.ne_none_iff_exists'.mp (mt (lowestSource_none s.pendingMask).mp h)
  have hpolls : (s.ime || !s.running) = true := by simp [hrun]
  rw [State.controller, if_pos hpolls, State.poll, hn]
  simp only [hime, Bool.false_eq_true, if_false]
  rfl

/-- The three ways past part 2 of the step with the core running, and the state `u` in which each begins part 4. -/
def PassesController (s u : State) : Prop :=
  (s.running = true ∧ s.ime = false ∧ u = s) ∨
  (s.running = true ∧ s.ime = true ∧ s.NonePending ∧ u = s.polled) ∨
  (s.running = false ∧ s.ime = false ∧ ¬ s.NonePending ∧ u = s.polled.setRunning true)

theorem PassesController.controller {s u : State} (h : PassesController s u) : s.controller = (false, u) := by
  obtain ⟨hrun, hime, rfl⟩ | ⟨-, hime, hnone, rfl⟩ | ⟨hrun, hime, hsome, rfl⟩ := h
  · exact controller_of_no_poll hrun hime
  · exact controller_of_nonePending (.inl hime) hnone
  · exact controller_of_wake hrun hime hsome

theorem PassesController.running {s u : State} (h : PassesController s u) : u.running = true := by
  obtain ⟨hrun, -, rfl⟩ | ⟨hrun, -, -, rfl⟩ | ⟨-, -, -, rfl⟩ := h
  · exact hrun
  · exact hrun
  · rfl

/-- What neither a record nor the wake touches, part 2 leaves as it was. -/
theorem PassesController.keeps {α : Sort*} {s u : State} (g : State → α) (h : PassesController s u)
    (hrecord : ∀ s ev, g (s.record ev) = g s) (hwake : ∀ s, g (s.setRunning true) = g s) : g u = g s := by
  have hpolled : g s.polled = g s := (hrecord _ _).trans (hrecord _ _)
  obtain ⟨-, -, rfl⟩ | ⟨-, -, -, rfl⟩ | ⟨-, -, -, rfl⟩ := h
  · rfl
  · exact hpolled
  · exact (hwake _).trans hpolled

theorem PassesController.imeNext {s u : State} (h : PassesController s u) : u.imeNext = s.imeNext :=
  h.keeps State.imeNext (fun _ _ => rfl) fun _ => rfl

theorem PassesController.trapResolved {s u : State} (h : PassesController s u) : u.trapResolved = s.trapResolved :=
  h.keeps State.trapResolved (fun _ _ => rfl) fun _ => rfl

theorem PassesController.atBreakpoint {s u : State} (h : PassesController s u) : u.atBreakpoint = s.atBreakpoint :=
  h.keeps State.atBreakpoint (fun _ _ => rfl) fun _ => rfl

theorem PassesController.atPc {s u : State} {i : Instr} (h : PassesController s u) (hat : s.AtPc i) : u.AtPc i :=
  (h.keeps (fun v => v.AtPc i) (fun _ _ => rfl) fun _ => rfl).mpr hat

theorem step_of_passesController {s u : State} (hblocked : s.blocked = false) (hstopped : s.stopped = false)
    (h : PassesController s u) : step s = u.afterController := step_of_controller hblocked hstopped h.controller

/-! ## The instruction at PC (rules R350, R352) -/

theorem step_of_passesController_atPc {s u : State} {i : Instr} (hblocked : s.blocked = false) (hstopped : s.stopped = false)
    (h : PassesController s u) (hbp : s.config.debugPresent = false ∨ s.pc ∉ s.execBp) (hat : s.AtPc i) :
    step s = exec i u.fetched := by
  have hunmarked : u.atBreakpoint = false := h.atBreakpoint.trans ((atBreakpoint_eq_false_iff s).mpr hbp)
  rw [step_of_passesController hblocked hstopped h]
  exact afterController_of_atPc h.running ((atBreakpoint_eq_false_iff u).mp hunmarked) (h.atPc hat)

/-- Settles O12: each of the three ways passes the controller. -/
theorem stepRunsDecodedInstruction : Obligations.StepRunsDecodedInstruction := fun _ _ hblocked hstopped hbp hat =>
  ⟨fun hrun hime => step_of_passesController_atPc hblocked hstopped (.inl ⟨hrun, hime, rfl⟩) hbp hat,
    fun hrun hime hnone => step_of_passesController_atPc hblocked hstopped (.inr (.inl ⟨hrun, hime, hnone, rfl⟩)) hbp hat,
    fun hrun hime hsome => step_of_passesController_atPc hblocked hstopped (.inr (.inr ⟨hrun, hime, hsome, rfl⟩)) hbp hat⟩

/-! ## The breakpoint check (rule R351) -/

theorem afterController_of_running {s : State} (hrun : s.running = true) : s.afterController =
    if s.commit.breakpoint.1 then .next s.commit.breakpoint.2 else s.commit.breakpoint.2.instruction :=
  if_neg (by simp [hrun])

section
variable {s : State} (hrun : s.running = true) (hbp : s.atBreakpoint = true)
include hrun hbp

theorem afterController_of_trap (hres : s.trapResolved = false) :
    s.afterController = .next { s.setIme s.imeNext with trapped := true } := by
  have hmarked : s.commit.atBreakpoint = true := hbp
  rw [afterController_of_running hrun, breakpoint_of_unresolved hmarked hres]
  rfl

theorem afterController_of_resolved {i : Instr} (hres : s.trapResolved = true) (hat : s.AtPc i) :
    s.afterController = exec i { s with trapResolved := false }.fetched := by
  have hmarked : s.commit.atBreakpoint = true := hbp
  have hpassed : State.AtPc { s.commit with trapResolved := false } i := hat
  rw [afterController_of_running hrun, breakpoint_of_resolved hmarked hres]
  exact instruction_of_atPc hpassed
end

/-- Settles O19: the check is the same on the three paths, which differ in what part 2 has recorded. -/
theorem breakpointTrapsBeforeTheFetch : Obligations.BreakpointTrapsBeforeTheFetch := by
  intro s u hblocked hstopped hpath hdebug hmem
  have h : PassesController s u := hpath
  have hbp : u.atBreakpoint = true := h.atBreakpoint.trans (by simp [State.atBreakpoint, hdebug, hmem])
  rw [step_of_passesController hblocked hstopped h, ← h.trapResolved, ← h.imeNext]
  exact ⟨afterController_of_trap h.running hbp, fun i hres hat => afterController_of_resolved h.running hbp hres (h.atPc hat)⟩

/-! ## The suspended core (rules R344, R349) -/

theorem step_of_held {s : State} (h : s.blocked = true ∨ s.stopped = true) : step s = .next s.idle := by
  have hheld : (s.blocked || s.stopped) = true := by simpa using h
  exact if_pos hheld

theorem step_of_halted {s : State} (hblocked : s.blocked = false) (hstopped : s.stopped = false) (hrun : s.running = false)
    (h : s.NonePending) : step s = .next s.polled.idle := by
  have hhalted : s.polled.running = false := hrun
  rw [step_of_controller hblocked hstopped (controller_of_nonePending (.inr hrun) h), State.afterController, hhalted]
  rfl

/-- Settles O14: one tick, after the two reads of the poll where the core is only halted. -/
theorem suspendedCoreOnlyTicks : Obligations.SuspendedCoreOnlyTicks := by
  refine ⟨fun s hheld => ?_, fun s hblocked hstopped hrun hnone => ?_⟩
  · have h : Effect s s.idle _ [] [] := (Effect.refl s).tick s.config.idleTick
    exact ⟨_, step_of_held hheld, h.clock, h.log, by simp, by simp, by simp, h.frame⟩
  · have h : Effect s s.polled.idle _ [] [] := (Effect.polled s).tick s.config.idleTick
    exact ⟨_, step_of_halted hblocked hstopped hrun hnone, h.clock, h.log, by simp, by simp, by simp, h.frame⟩

/-! ## Waking without a dispatch (rule R347) -/

/-- The state in which the instruction of a waking step begins: polled, running, the latch committed, the opcode read. -/
def State.woken (s : State) : State := (s.polled.setRunning true).fetched

section
variable (s : State)
@[simp] theorem woken_pc : s.woken.pc = s.pc := by simp [State.woken, State.fetched]
@[simp] theorem woken_sp : s.woken.sp = s.sp := by simp [State.woken, State.fetched]
@[simp] theorem woken_f : s.woken.f = s.f := by simp [State.woken, State.fetched]
@[simp] theorem woken_clock : s.woken.clock = s.clock := by simp [State.woken, State.fetched]
@[simp] theorem woken_running : s.woken.running = true := by simp [State.woken, State.fetched]
@[simp] theorem woken_ime : s.woken.ime = s.imeNext := by simp [State.woken, State.fetched]
@[simp] theorem woken_imeNext : s.woken.imeNext = s.imeNext := by simp [State.woken, State.fetched]
@[simp] theorem woken_reg (r : Reg8) : s.woken.reg r = s.reg r := by simp [State.woken, State.fetched]

theorem woken_log : BusLog s s.woken [.read s.config.ieAddr (s.peek s.config.ieAddr),
    .read s.config.ifAddr (s.peek s.config.ifAddr), .read s.pc (s.peek s.pc)] := by
  simp [BusLog, State.woken, State.fetched]

theorem evolves_woken (stored : List Word) : Evolves s s.woken stored := by simp [State.woken, State.fetched]
end

/-- Settles O15: the NOP's effect on the woken state. -/
theorem haltWakesWithoutDispatch : Obligations.HaltWakesWithoutDispatch := by
  intro s hblocked hstopped hrun hime hsome hbp hat
  obtain ⟨-, -, hwake⟩ := stepRunsDecodedInstruction s .nop hblocked hstopped hbp hat
  have hstep : step s = exec .nop s.woken := hwake hrun hime hsome
  have h : Effect s.woken (s.woken.begin1.advance 1) _ [] [] := (Effect.begin1 s.woken).advance 1
  exact ⟨_, hstep, by simp, by simp, by simp, by simp, by simp, by simp, by simp, fun r _ => by simp,
    ((evolves_woken s []).trans h.evolves).keepsMemory, (woken_log s).trans h.log⟩

end Sys2Proof.Machine

/-! # Proofs: the dispatch of an interrupt (rules R345, R346, R348) -/

namespace Sys2Proof.Machine

theorem KeepsDebug.trans {s t u : State} (h : KeepsDebug s t) (k : KeepsDebug t u) : KeepsDebug s u := by
  simp_all [KeepsDebug]

/-- A dispatch up to its first tick: polled, running, bit `i` cleared in the byte at `IF_ADDR`, both latches cleared. -/
def State.acknowledged (s : State) (i : Nat) : State :=
  (((s.polled.setRunning true).busWrite s.config.ifAddr (s.peek s.config.ifAddr &&& ~~~(1#8 <<< i))).setIme false).setImeNext
    false

/-- The rest of a dispatch: the internal cycles, the push of PC, the jump to vector `i`. -/
def State.enterHandler (s : State) (i : Nat) : State :=
  (((s.tick (dispatchLead s.config)).push16 s.pc).setPc (s.config.intVectorBase + BitVec.ofNat 16 (8 * i))).tick 4

theorem takeInterrupt_polled (s : State) (i : Nat) :
    (s.polled.setRunning true).takeInterrupt i (s.peek s.config.ifAddr) = (s.acknowledged i).enterHandler i := by
  simp [State.takeInterrupt, State.acknowledged, State.enterHandler, State.polled, bitMask]

section
variable (s : State) (i : Nat)
@[simp] theorem acknowledged_pc : (s.acknowledged i).pc = s.pc := by simp [State.acknowledged]
@[simp] theorem acknowledged_sp : (s.acknowledged i).sp = s.sp := by simp [State.acknowledged]
@[simp] theorem acknowledged_f : (s.acknowledged i).f = s.f := by simp [State.acknowledged]
@[simp] theorem acknowledged_clock : (s.acknowledged i).clock = s.clock := by simp [State.acknowledged]
@[simp] theorem acknowledged_running : (s.acknowledged i).running = true := by simp [State.acknowledged]
@[simp] theorem acknowledged_ime : (s.acknowledged i).ime = false := by simp [State.acknowledged]
@[simp] theorem acknowledged_imeNext : (s.acknowledged i).imeNext = false := by simp [State.acknowledged]
@[simp] theorem acknowledged_config : (s.acknowledged i).config = s.config := by simp [State.acknowledged]
@[simp] theorem acknowledged_reg (r : Reg8) : (s.acknowledged i).reg r = s.reg r := by simp [State.acknowledged]
@[simp] theorem acknowledged_peek : (s.acknowledged i).peek s.config.ifAddr = s.peek s.config.ifAddr &&& ~~~(1#8 <<< i) := by
  simp [State.acknowledged]

theorem acknowledged_log : BusLog s (s.acknowledged i) [.read s.config.ieAddr (s.peek s.config.ieAddr),
    .read s.config.ifAddr (s.peek s.config.ifAddr),
    .write s.config.ifAddr (s.peek s.config.ifAddr &&& ~~~(1#8 <<< i))] := by
  simp [BusLog, State.acknowledged]

theorem acknowledged_keepsDebug : KeepsDebug s (s.acknowledged i) := by simp [KeepsDebug, State.acknowledged]

theorem heldOver_acknowledged : HeldOver s (s.acknowledged i) := by simp [State.acknowledged]

theorem evolves_acknowledged {stored : List Word} (h : s.config.ifAddr ∈ stored) : Evolves s (s.acknowledged i) stored := by
  simp [State.acknowledged, h]
end

section
variable (s : State) (i : Nat)
@[simp] theorem enterHandler_pc : (s.enterHandler i).pc = s.config.intVectorBase + BitVec.ofNat 16 (8 * i) := by
  simp [State.enterHandler]
@[simp] theorem enterHandler_f : (s.enterHandler i).f = s.f := by simp [State.enterHandler]

theorem Effect.enterHandler {stored : List Word} (hstored : ∀ a ∈ [s.sp - 1, s.sp - 2], a ∈ stored) :
    Effect s (s.enterHandler i) [.tick (s.config.intDispatchTicks - 12), .write (s.sp - 1) (hiByte s.pc), .tick 4,
      .write (s.sp - 2) (loByte s.pc), .tick 4, .tick 4] [] stored := by
  have hlead : Effect s (s.tick (dispatchLead s.config)) _ [] stored := (Effect.refl s).tick _
  exact ((hlead.push s.pc hstored (tick_sp s _)).setPc _).tick 4
end

/-- What has come to stand at an address by `t` settles there (R61, R74). -/
theorem Stores.settles {s t : State} {a : Word} {v : Byte} (h : Stores s t a v) (hlater : Later s t) : Settles s t a v :=
  ⟨hlater, fun _ hu hspares => h fun x hx hdue => hspares x hx (hdue.trans hu)⟩

theorem Later.stores {s t u : State} {a : Word} {v : Byte} (h : Later s t) (k : Stores t u a v) : Stores s u a v :=
  fun hspares => k (h.spares hspares)

/-- The jump and its cycle leave the pushed bytes alone. -/
theorem enterHandler_pushed (s : State) (i : Nat) : Pushed s (s.enterHandler i) s.pc := by
  have hlead : Effect s (s.tick (dispatchLead s.config)) _ [] [s.sp - 1, s.sp - 2] := (Effect.refl s).tick _
  have hpush := hlead.push s.pc (fun _ ha => ha) (tick_sp s _)
  have hkept {a : Word} {v : Byte} (h : Stores s ((s.tick (dispatchLead s.config)).push16 s.pc) a v) :
      Stores s (s.enterHandler i) a v :=
    (settles_tick a v 4 ((settles_setPc _ _ _ _ _).mpr (h.settles hpush.evolves.1))).stores
  obtain ⟨hsp, hhigh, hlow⟩ := hlead.pushed s.pc (tick_sp s _)
  exact ⟨(tick_sp _ 4).trans hsp, hkept hhigh, hkept hlow⟩

/-- Where `INT_DISPATCH_TICKS` leaves room for the pushes and the jump, it is what a dispatch takes (log entry 10). -/
theorem enterHandler_clock {s : State} (i : Nat) (h : 12 ≤ s.config.intDispatchTicks) :
    (s.enterHandler i).clock = s.clock + s.config.intDispatchTicks := by
  have hlead : dispatchLead s.config + 12 = s.config.intDispatchTicks := Nat.sub_add_cancel h
  simp [State.enterHandler, ← hlead, Nat.add_assoc]

/-- Settles O16: the acknowledgement changes memory at `IF_ADDR` alone, and what follows it only pushes. -/
theorem interruptDispatch : Obligations.InterruptDispatch := by
  intro s i hblocked hstopped hime hsel
  have hstep : step s = .next ((s.acknowledged i).enterHandler i) := by
    rw [step_of_selects hblocked hstopped hime hsel, takeInterrupt_polled]
  have hack : Evolves s (s.acknowledged i) [s.config.ifAddr, s.sp - 1, s.sp - 2] := evolves_acknowledged s i (by simp)
  have h := Effect.enterHandler (s.acknowledged i) i (stored := [s.config.ifAddr, s.sp - 1, s.sp - 2]) (by simp)
  have hpushes := Effect.enterHandler (s.acknowledged i) i (stored := [s.sp - 1, s.sp - 2]) (by simp)
  obtain ⟨hrunning, hlatch, hlatchNext, hdebug⟩ := h.control
  obtain ⟨hsp, hhigh, hlow⟩ := enterHandler_pushed (s.acknowledged i) i
  rw [acknowledged_sp] at hsp hhigh hlow
  rw [acknowledged_pc] at hhigh hlow
  refine ⟨_, hstep, by simp, hsp, hlatch.trans (acknowledged_ime s i), hlatchNext.trans (acknowledged_imeNext s i),
    hrunning.trans (acknowledged_running s i), fun hticks => ?_, ?_, hack.1.stores hhigh, hack.1.stores hlow,
    fun hhi hlo hspares => ?_, by simp, (acknowledged_keepsDebug s i).trans hdebug,
    fun r hr => (h.regs r hr).trans (acknowledged_reg s i r), ((heldOver_acknowledged s i).trans h.held).keepsHolds,
    (hack.trans h.evolves).keepsMemory⟩
  · simpa using enterHandler_clock (s := s.acknowledged i) i (by simpa using hticks)
  · simpa only [acknowledged_pc, acknowledged_sp, acknowledged_config, List.cons_append, List.nil_append]
      using (acknowledged_log s i).trans h.log
  · have hkept := hpushes.evolves.keepsMemory s.config.ifAddr (by simpa using And.intro hhi hlo) (hack.1.spares hspares)
    exact hkept.trans (acknowledged_peek s i)

end Sys2Proof.Machine

/-! # Proofs: the end of a run (rule R363) -/

namespace Sys2Proof.Machine

@[simp] theorem pass_peek (s : State) (n : Nat) (a : Word) : (s.pass n).peek a = s.peek a := rfl

theorem jrMinusTwo_atPc {s : State} (henv : s.env = []) (hop : s.peek s.pc = 0x18) (hoperand : s.peek (s.pc + 1) = 0xFE) :
    s.AtPc (.jrE8 0xFE) := by
  refine ⟨?_, ?_, [s.peek (s.pc + 2)], ?_⟩
  · simp [State.EnvSpares, henv]
  · simp [State.EnvSpares, henv]
  · rw [hop, hoperand]
    exact decode_encode (.jrE8 0xFE) _ rfl

/-- With nothing scheduled `JR -2` leads to its own address, and its cycles only pass. -/
theorem exec_jrMinusTwo {s : State} (henv : s.env = []) : exec (.jrE8 0xFE) s =
    .next ((((s.pass 4).record (.read (s.pc + 1) (s.peek (s.pc + 1)))).pass 4).pass 4) := by
  have hcycles : s.begin2.cycle = (((s.pass 4).record (.read (s.pc + 1) (s.peek (s.pc + 1)))).pass 4).pass 4 := by
    simp [tick_of_no_env, henv]
  have htarget : s.relTarget 0xFE = s.pc := by
    have hback : sext8 0xFE = -2 := by decide
    rw [State.relTarget, hback]
    bv_omega
  have hexec : exec (.jrE8 0xFE) s = .next (s.begin2.cycle.setPc (s.begin2.cycle.relTarget 0xFE)) := rfl
  rw [hexec, hcycles]
  exact congrArg (fun v => Host.Outcome.next (State.setPc _ v)) htarget

theorem setIme_of_eq {s : State} {v : Bool} (h : v = s.ime) : s.setIme v = s := by
  rw [h]
  rfl

/-- Settles O20: the commit writes IME = 0 again, and the jump leads to its own address. -/
theorem endlessJumpChangesOnlyTheClock : Obligations.EndlessJumpChangesOnlyTheClock := by
  intro s hready hime hnext henv hop hoperand
  have hfetched : s.fetched = s.record (.read s.pc (s.peek s.pc)) := by
    rw [State.fetched, setIme_of_eq (hnext.trans hime.symm)]
  have hstep := step_of_ready hready hime (jrMinusTwo_atPc henv hop hoperand)
  rw [hfetched, exec_jrMinusTwo (s := s.record _) henv] at hstep
  exact ⟨_, hstep, by simp [State.pass], by simp [State.pass, State.record]⟩

end Sys2Proof.Machine

/-! # Proofs: the clock table (rule R400) -/

namespace Sys2Proof.Machine

/-! ## What the shapes the rules share add to the clock -/

section
variable (s : State) (v : Word) (op : AccOp) (x : Byte) (n : Nat) (rot : Byte → Bool → Byte × Bool) (r : Reg8)
@[simp] theorem accumulate_clock : (s.accumulate op x n).clock = s.clock := rfl
@[simp] theorem compare_clock : (s.compare op x n).clock = s.clock := rfl
@[simp] theorem rotateAcc_clock : (s.rotateAcc rot).clock = s.clock := rfl
@[simp] theorem shiftReg_clock : (s.shiftReg rot r).clock = s.clock := by simp [State.shiftReg]
@[simp] theorem shiftHl_clock : (s.shiftHl rot).clock = s.clock + 8 := by simp [State.shiftHl]
@[simp] theorem skipUndefined_clock : s.skipUndefined.clock = s.clock + s.config.undefTicks := by simp [State.skipUndefined]
@[simp] theorem setHl_clock : (s.setHl v).clock = s.clock := rfl
@[simp] theorem setAf_clock : (s.setAf v).clock = s.clock := rfl
@[simp] theorem setPair16_clock (p : Pair16) : (s.setPair16 p v).clock = s.clock := by cases p <;> rfl
@[simp] theorem setPairStk_clock (p : PairStk) : (s.setPairStk p v).clock = s.clock := by cases p <;> rfl
@[simp] theorem pop16_clock : s.pop16.2.clock = s.clock + 8 := by simp [pop16_snd, popMiddle_eq]
@[simp] theorem returnFromInterrupt_clock : s.returnFromInterrupt.clock = s.clock + 12 := by simp [State.returnFromInterrupt]
end

/-! ## The rows of the table -/

/-- A conditional form, which tests F when its opening has left it alone, costs what the form it takes does. -/
theorem exec_conditional_clock {s u taken other : State} {i : Instr} {cc : Cond} {m n : Nat} (hf : u.f = s.f)
    (hx : exec i s = if condHolds cc u.f then .next taken else .next other) (htaken : taken.clock = s.clock + m)
    (hother : other.clock = s.clock + n) :
    ∃ t, exec i s = .next t ∧ t.clock = s.clock + if condHolds cc s.f then m else n := by
  obtain ⟨hc, ht⟩ | ⟨hc, ht⟩ := exec_conditional hf hx
  · exact ⟨taken, ht, by rw [htaken, if_pos ((condSays_iff cc s).mp hc)]⟩
  · exact ⟨other, ht, by rw [hother, if_neg (mt (condSays_iff cc s).mpr hc)]⟩

/-- Every table entry but PREFIX CB completes at the cost of its row; the cases are the rows, in the table's order. -/
theorem exec_clock (i : Instr) (s : State) (hi : ∀ op2, i ≠ .prefixCb op2) :
    ∃ t, exec i s = .next t ∧ t.clock = s.clock + clockTable s.config i s.f := by
  cases i with
  | prefixCb op2 => exact absurd rfl (hi op2)
  | undefD3 | undefDB | undefDD | undefE3 | undefE4 | undefEB | undefEC | undefED | undefF4 | undefFC | undefFD =>
    exact ⟨s.skipUndefined, rfl, skipUndefined_clock s⟩
  | nop | ldRR | addAR | adcAR | subR | sbcAR | andR | xorR | orR | cpR | incR | decR | daa | cpl | scf | ccf | rlca | rrca
  | rla | rra | jpHl | di | ei | halt | stop => exact ⟨_, rfl, show _ = s.clock + 4 by simp⟩
  | ldRHl | ldHlR | ldABc | ldADe | ldBcA | ldDeA | ldAHli | ldAHld | ldHliA | ldHldA | ldAC | ldCA | ldSpHl
  | addAHl | adcAHl | subHl | sbcAHl | andHl | xorHl | orHl | cpHl | addHlRr | incRr | decRr
  | ldRD8 | addAD8 | adcAD8 | subD8 | sbcAD8 | andD8 | xorD8 | orD8 | cpD8 => exact ⟨_, rfl, show _ = s.clock + 8 by simp⟩
  | ldHlD8 | ldhAA8 | ldhA8A | ldRrD16 | ldHlSpE8 | incHl | decHl | jrE8 | popRr | popAf =>
    exact ⟨_, rfl, show _ = s.clock + 12 by simp⟩
  | ldAA16 | ldA16A | jpA16 | ret | reti | rst | pushRr | addSpE8 => exact ⟨_, rfl, show _ = s.clock + 16 by simp⟩
  | ldA16Sp => exact ⟨_, rfl, show _ = s.clock + 20 by simp⟩
  | callA16 => exact ⟨_, rfl, show _ = s.clock + 24 by simp⟩
  | jpCcA16 cc a => exact exec_conditional_clock (begin3_f s) rfl (by simp) (by simp)
  | jrCcE8 cc e => exact exec_conditional_clock (begin2_f s) rfl (by simp) (by simp)
  | callCcA16 cc a => exact exec_conditional_clock (begin3_f s) rfl (by simp) (by simp)
  | retCc cc => exact exec_conditional_clock (begin1_cycle_f s) rfl (by simp) (by simp)
  | rlcR | rrcR | rlR | rrR | slaR | sraR | swapR | srlR | bitBR | resBR | setBR =>
    exact ⟨_, rfl, show _ = s.clock + 8 by simp⟩
  | bitBHl => exact ⟨_, rfl, show _ = s.clock + 12 by simp⟩
  | rlcHl | rrcHl | rlHl | rrHl | slaHl | sraHl | swapHl | srlHl | resBHl | setBHl =>
    exact ⟨_, rfl, show _ = s.clock + 16 by simp⟩

/-- Settles O24: PREFIX CB performs its secondary entry, and every other entry costs what its row says. -/
theorem clockTableObeyed : Obligations.ClockTableObeyed := by
  intro i j s hj
  rw [exec_of_resolvePrefix s hj]
  exact exec_clock j s (resolvePrefix_spec hj).1

end Sys2Proof.Machine

/-! # Proofs: the host's reset (rule R390) -/

namespace Sys2Proof.Machine

/-- Settles O1: the reset is the update of the fields that the statement lists, and of no other. -/
theorem hostResetLoadsRegisters : Obligations.HostResetLoadsRegisters := by
  intro s q
  exact ⟨s.hostReset q, rfl, by simp [State.hostReset]⟩

end Sys2Proof.Machine

/-! # Proofs: the window after DI (rules R308, R394) -/

namespace Sys2Proof.Machine

/-- Settles O18: DI keeps IME = 1 and clears the latch, so the next step still polls: it pushes the PC that DI left, or goes on to
the commit of the cleared latch. -/
theorem disableLeavesOneWindow : Obligations.DisableLeavesOneWindow := by
  intro s hime hdelayed
  obtain ⟨⟨t, ht, ⟨hpc, -, -⟩, hnext, hlatch, -⟩, -⟩ := enableHaltStop s
  have hset : t.ime = true := by simpa [hime, hdelayed] using hlatch
  refine ⟨t, ht, hset, hnext, hpc, fun n hblocked hstopped hsel => ?_, fun i hready hnone hat => ?_⟩
  · obtain ⟨u, hu, hvector, -, -, -, -, -, -, hhigh, hlow, -⟩ := interruptDispatch t n hblocked hstopped hset hsel
    exact ⟨u, hu, hvector, hpc ▸ hhigh, hpc ▸ hlow⟩
  · obtain ⟨hblocked, hstopped, hrun, hbp⟩ := hready
    obtain ⟨-, hpolled, -⟩ := stepRunsDecodedInstruction t i hblocked hstopped hbp hat
    exact ⟨hnext, hpolled hrun hset hnone⟩

end Sys2Proof.Machine
